-- ==== Sys2Proof/Word.lean ====
section
/-! DEFINITION. The widths of the encoder block: bytes, 32-bit registers, 64-bit command words (00_scope.md R13, R14). -/

namespace Sys2Proof

/-- An 8-bit unsigned value (R13): a channel value, a bus symbol, a fault code. -/
abbrev Byte := BitVec 8

/-- A 64-bit command word `w` (R58). -/
abbrev Word := BitVec 64

/-- A 32-bit register value (10_state.md section 5). -/
abbrev Reg32 := BitVec 32

end Sys2Proof
end

