-- ==== Sys2Proof/Syntax.lean ====
section
/-! DEFINITION. The commands of 30_encoding.md, one constructor per row of spec/opcode_table.json. A constructor keeps every
bit of its word, the ignored fields of R66 among them, because `responses` records the word the host issued (R28; log 9). -/

namespace Sys2Proof

/-- The four value operands of R61, keyed by role: `VR`, `VG`, `VB`, `VW` of R59. -/
structure ChannelValues where
  r : Byte
  g : Byte
  b : Byte
  w : Byte
  deriving DecidableEq, Repr

/-- One command word, taken apart. -/
inductive Instr where
  /-- NOP (R106); `ignored = w[63:8]`. -/
  | nop (ignored : BitVec 56)
  /-- ENCODE (R77); `value = w[39:32]`, `ignoredLo = w[31:8]`, `ignoredHi = w[63:40]`. -/
  | encode (value : Byte) (ignoredLo : BitVec 24) (ignoredHi : BitVec 24)
  /-- FORMAT (R82); `ignored = w[31:8]`. -/
  | format (vals : ChannelValues) (ignored : BitVec 24)
  /-- SET_BRIGHTNESS (R87); `index = w[31:8]`. -/
  | setBrightness (index : BitVec 24) (vals : ChannelValues)
  /-- Reserved opcodes 0x4 to 0x7 (R65); `op = w[3:0]`, `rest = w[63:8]`. -/
  | reserved4to7 (op : BitVec 4) (rest : BitVec 56)
  /-- Reserved opcodes 0x8 to 0xF (R65). -/
  | reserved8toF (op : BitVec 4) (rest : BitVec 56)
  /-- Illegal word, `w[4] = 1` (R64); `rsv = w[7:4]`. -/
  | illegalRsv4 (op : BitVec 4) (rsv : BitVec 4) (rest : BitVec 56)
  /-- Illegal word, `w[5]` the lowest reserved bit set (R64). -/
  | illegalRsv5 (op : BitVec 4) (rsv : BitVec 4) (rest : BitVec 56)
  /-- Illegal word, `w[6]` the lowest reserved bit set (R64). -/
  | illegalRsv6 (op : BitVec 4) (rsv : BitVec 4) (rest : BitVec 56)
  /-- Illegal word, `w[7]` the lowest reserved bit set (R64). -/
  | illegalRsv7 (op : BitVec 4) (rsv : BitVec 4) (rest : BitVec 56)
  deriving DecidableEq, Repr

end Sys2Proof
end

