-- ==== Sys2Proof/WellFormed.lean ====
section
/-! DEFINITION. When a command term is the reading of some word: its opcode and reserved fields lie in its table row, and of
the four overlapping ILLEGAL rows it is the one of the lowest reserved bit set (log 10). -/

namespace Sys2Proof

/-- The fields of a term fit the row of spec/opcode_table.json it stands for (R63 to R65). -/
def WellFormed : Instr → Bool
  | .nop _ => true
  | .encode _ _ _ => true
  | .format _ _ => true
  | .setBrightness _ _ => true
  | .reserved4to7 op _ => decide (4 ≤ op.toNat ∧ op.toNat ≤ 7)
  | .reserved8toF op _ => decide (8 ≤ op.toNat)
  | .illegalRsv4 _ rsv _ => rsv.getLsbD 0
  | .illegalRsv5 _ rsv _ => !rsv.getLsbD 0 && rsv.getLsbD 1
  | .illegalRsv6 _ rsv _ => !rsv.getLsbD 0 && !rsv.getLsbD 1 && rsv.getLsbD 2
  | .illegalRsv7 _ rsv _ => !rsv.getLsbD 0 && !rsv.getLsbD 1 && !rsv.getLsbD 2 && rsv.getLsbD 3

end Sys2Proof
end

