-- ==== Sys2Proof/Decode.lean ====
section
/-! DEFINITION. The decoder of 30_encoding.md: fields (R59), the total decoding of a word (R67, but for its `ready` test,
which every meaning makes first), bytes on a byte-wide channel (R41), and the encoder from the same table. -/

namespace Sys2Proof

/-- `OP = w[3:0]` (R59). -/
def opField (w : Word) : BitVec 4 := w.extractLsb' 0 4

/-- `RSV = w[7:4]` (R59). -/
def rsvField (w : Word) : BitVec 4 := w.extractLsb' 4 4

/-- `INDEX = w[31:8]` (R59). -/
def indexField (w : Word) : BitVec 24 := w.extractLsb' 8 24

/-- `VR = w[39:32]` (R59), also the ENCODE operand (R62). -/
def vrField (w : Word) : Byte := w.extractLsb' 32 8

/-- `VG = w[47:40]` (R59). -/
def vgField (w : Word) : Byte := w.extractLsb' 40 8

/-- `VB = w[55:48]` (R59). -/
def vbField (w : Word) : Byte := w.extractLsb' 48 8

/-- `VW = w[63:56]` (R59). -/
def vwField (w : Word) : Byte := w.extractLsb' 56 8

/-- The four value fields of R61, by role. -/
def valsField (w : Word) : ChannelValues :=
  { r := vrField w, g := vgField w, b := vbField w, w := vwField w }

/-- `w[63:8]`: everything above OP and RSV. -/
def restField (w : Word) : BitVec 56 := w.extractLsb' 8 56

/-- `w[63:40]`: what ENCODE ignores above its operand (R66). -/
def encodeHiField (w : Word) : BitVec 24 := w.extractLsb' 40 24

/-- An illegal word (R64), sorted under the row of its lowest reserved bit set (log 10). -/
def decodeIllegal (w : Word) : Instr :=
  if (rsvField w).getLsbD 0 then .illegalRsv4 (opField w) (rsvField w) (restField w)
  else if (rsvField w).getLsbD 1 then .illegalRsv5 (opField w) (rsvField w) (restField w)
  else if (rsvField w).getLsbD 2 then .illegalRsv6 (opField w) (rsvField w) (restField w)
  else .illegalRsv7 (opField w) (rsvField w) (restField w)

/-- Decoding, total on every 64-bit word, in the order of R67's tests. -/
def decodeWord (w : Word) : Instr :=
  if rsvField w ≠ 0 then decodeIllegal w
  else if opField w = 0 then .nop (restField w)
  else if opField w = 1 then .encode (vrField w) (indexField w) (encodeHiField w)
  else if opField w = 2 then .format (valsField w) (indexField w)
  else if opField w = 3 then .setBrightness (indexField w) (valsField w)
  else if (opField w).toNat ≤ 7 then .reserved4to7 (opField w) (restField w)
  else .reserved8toF (opField w) (restField w)

/-- Why bytes are no command: the port takes only whole 64-bit words (R42, R58). -/
inductive DecodeError where
  | notEightBytes (n : Nat)
  deriving DecidableEq, Repr

/-- Byte `j` is bits `8j+7 : 8j` (R41): the first `k` bytes of a value, lowest first. -/
def toBytesLE {n : Nat} (k : Nat) (v : BitVec n) : List Byte :=
  (List.range k).map fun j => v.extractLsb' (8 * j) 8

/-- The natural number whose little-endian bytes are given (R41). -/
def ofBytesLE : List Byte → Nat
  | [] => 0
  | b :: bs => b.toNat + 256 * ofBytesLE bs

/-- The decoder over the bytes of a byte-wide command channel (R41, R58): exactly eight bytes make a command. -/
def decodeBytes (bs : List Byte) : Except DecodeError Instr :=
  if bs.length = 8 then .ok (decodeWord (BitVec.ofNat 64 (ofBytesLE bs)))
  else .error (.notEightBytes bs.length)

/-- The low byte: RSV above OP (R59). -/
def headByte (op rsv : BitVec 4) : Byte := rsv ++ op

/-- The four value fields above bit 32 (R59): `VW`, `VB`, `VG`, `VR` from the top. -/
def encodeVals (v : ChannelValues) : BitVec 32 := v.w ++ v.b ++ v.g ++ v.r

/-- `w = OP | RSV<<4 | INDEX<<8 | VR<<32 | VG<<40 | VB<<48 | VW<<56` (R59), with the opcodes of R63. -/
def encode : Instr → Word
  | .nop ignored => ignored ++ headByte 0 0
  | .encode value lo hi => hi ++ value ++ lo ++ headByte 1 0
  | .format vals lo => encodeVals vals ++ lo ++ headByte 2 0
  | .setBrightness index vals => encodeVals vals ++ index ++ headByte 3 0
  | .reserved4to7 op rest => rest ++ headByte op 0
  | .reserved8toF op rest => rest ++ headByte op 0
  | .illegalRsv4 op rsv rest => rest ++ headByte op rsv
  | .illegalRsv5 op rsv rest => rest ++ headByte op rsv
  | .illegalRsv6 op rsv rest => rest ++ headByte op rsv
  | .illegalRsv7 op rsv rest => rest ++ headByte op rsv

/-- The word of a table row's `nbits` bits `w`, every bit above them 0 (the host's numbering is R59's: one 64-bit word). -/
def tableWord (nbits w : Nat) : Word := BitVec.ofNat 64 (w % 2 ^ nbits)

/-- What the decoder reads from the bytes of a table row's word, laid out as R41 orders them. -/
def decodeTableWord (nbits w : Nat) : Option Instr :=
  match decodeBytes (toBytesLE 8 (tableWord nbits w)) with
  | .ok i => some i
  | .error _ => none

end Sys2Proof
end

