-- ==== Sys2Proof/Config.lean ====
section
/-! DEFINITION. The implementation parameters of 00_scope.md section 3 as one plain record, and the model's free values.
A `Config` stands in State as the configuration sampled at reset release (R126; log 1), so that a statement about every
state speaks of every configuration. -/

namespace Sys2Proof

/-- A channel role (R8): red, green, blue, white. -/
inductive Role where
  | r
  | g
  | b
  | w
  deriving DecidableEq, Repr

/-- The role codes of R8: R 0, G 1, B 2, W 3. -/
def Role.code : Role → BitVec 2
  | .r => 0
  | .g => 1
  | .b => 2
  | .w => 3

/-- `CHANNEL_ORDER` (R8): the four entries `ORDER[0..3]`, of which the first `CHANNELS_PER_LED` are used. -/
structure ChannelOrder where
  slot0 : Role
  slot1 : Role
  slot2 : Role
  slot3 : Role
  deriving DecidableEq, Repr

/-- `ORDER[0..3]` as a list, `ORDER[0]` first. -/
def ChannelOrder.toList (o : ChannelOrder) : List Role := [o.slot0, o.slot1, o.slot2, o.slot3]

/-- `LATCH_IDLE_CLKS` (R11): a natural number of bus clocks, at least 1. -/
abbrev LatchClks := { n : Nat // 1 ≤ n }

/-- The outcome of the initialisation check, the field `init_err` (10_state.md R24, R29). -/
inductive InitErr where
  | noError
  | configurationError
  | allocationFailure
  deriving DecidableEq, Repr

/-- The two bits `init_err` reads as in STATUS (R29): 0 none, 1 `ConfigurationError`, 2 `AllocationFailure`. -/
def InitErr.code : InitErr → BitVec 2
  | .noError => 0
  | .configurationError => 1
  | .allocationFailure => 2

/-- The parameters of R5 to R11. `busClocks` is `BUS_CLOCK_SUPPORTED` (R6) as the finite list of the rates the bus clock
source can produce; R128 asks it only about the 32-bit `BUS_FREQ_HZ` (log 3). -/
structure Config where
  /-- `ZERO_SYMBOL` (R5) -/
  zeroSymbol : Byte
  /-- `ONE_SYMBOL` (R5) -/
  oneSymbol : Byte
  /-- `BUS_FREQ_HZ` (R6) -/
  busFreqHz : Reg32
  /-- `NATIVE_BIT_RATE_HZ` (R6) -/
  nativeBitRateHz : Reg32
  /-- `BITS_PER_CHANNEL` (R7) -/
  bitsPerChannel : BitVec 4
  /-- `CHANNELS_PER_LED` (R8) -/
  channelsPerLed : BitVec 4
  /-- `CHANNEL_ORDER` (R8) -/
  order : ChannelOrder
  /-- `NUM_LEDS` (R10) -/
  numLeds : Reg32
  /-- `BUFFER_CAPACITY`, in bytes (R11) -/
  bufferCapacity : Nat
  /-- `LATCH_IDLE_CLKS` (R11) -/
  latchIdleClks : LatchClks
  /-- the rates for which `BUS_CLOCK_SUPPORTED` holds (R6, R11) -/
  busClocks : List Nat
  deriving DecidableEq, Repr

/-- FREE VALUE (log 6): which waiting host the engine accepts next where the agenda says nothing, as a position in the list
of waiting hosts (R53: open). It has no body: nothing can evaluate it. -/
opaque Config.arbitrate : Nat → Nat

/-- FREE VALUE (log 6): how many bus clock periods pass before the block's next own choice takes effect, where the agenda
says nothing: before a waiting command is accepted (R53, R138), before bit 0 (R96). It is a natural number, so the wait is
finite whatever it is, and nothing bounds it. It has no body: nothing can evaluate it. -/
opaque Config.delay : Nat → Nat

end Sys2Proof
end

