-- ==== Sys2Proof/Machine/Profile.lean ====
section
/-! DEFINITION. What the configuration gives: derived sizes (R9, R10), the wire order (R8), the initialisation check (R128),
the calibration profile (R12), and the configuration `State.reset` samples (log 2). -/

namespace Sys2Proof

/-- `LATCH_IDLE_CLKS` as a natural (R11). -/
def Config.latch (c : Config) : Nat := c.latchIdleClks.val

/-- `CHANNELS_PER_LED` as a natural (R8). -/
def Config.channels (c : Config) : Nat := c.channelsPerLed.toNat

/-- `NUM_LEDS` as a natural (R10). -/
def Config.leds (c : Config) : Nat := c.numLeds.toNat

/-- `PIXEL_SYMBOL_SIZE = BITS_PER_CHANNEL * CHANNELS_PER_LED` (R9). -/
def Config.pixelSymbolSize (c : Config) : Nat := c.bitsPerChannel.toNat * c.channels

/-- `FRAME_BYTES = NUM_LEDS * PIXEL_SYMBOL_SIZE` (R10). -/
def Config.frameBytes (c : Config) : Nat := c.leds * c.pixelSymbolSize

/-- `L = 8 * FRAME_BYTES`, the bits of one frame (R94). -/
def Config.frameBits (c : Config) : Nat := 8 * c.frameBytes

/-- `ORDER[0 .. CHANNELS_PER_LED-1]`, wire position 0 first (R8; log 20 for counts over four). -/
def Config.wireOrder (c : Config) : List Role := c.order.toList.take c.channels

/-- `BUS_CLOCK_SUPPORTED(f)` (R6; log 3). -/
def Config.busClockSupported (c : Config) (f : Nat) : Bool := decide (f ∈ c.busClocks)

/-- The profile is valid: none of R128's `ConfigurationError` tests holds. -/
def Config.profileValid (c : Config) : Bool :=
  decide (c.bitsPerChannel = 8)
  && decide (c.channels = 3 ∨ c.channels = 4)
  && decide c.wireOrder.Nodup
  && decide (c.zeroSymbol ≠ c.oneSymbol)
  && decide (c.busFreqHz.toNat = 8 * c.nativeBitRateHz.toNat)
  && c.busClockSupported c.busFreqHz.toNat

/-- The buffer fits: neither of R128's `AllocationFailure` tests holds. -/
def Config.bufferFits (c : Config) : Bool :=
  decide (c.leds ≤ 2 ^ 24) && decide (c.leds * c.pixelSymbolSize ≤ c.bufferCapacity)

/-- `init_check` (R128): the configuration error is tested first. -/
def Config.initCheck (c : Config) : InitErr :=
  if c.profileValid = false then .configurationError
  else if c.bufferFits = false then .allocationFailure
  else .noError

/-- The value `ready` that `init_check` gives (R128). -/
def Config.initReady (c : Config) : Bool := decide (c.initCheck = .noError)

/-- The calibration profile of R12 for a strip of `leds` LEDs, a buffer of `capacity` bytes and a gap of `gap` clocks. -/
def Config.calibration (leds : Reg32) (capacity : Nat) (gap : LatchClks) : Config :=
  { zeroSymbol := 0xC0, oneSymbol := 0xFC, busFreqHz := 6400000, nativeBitRateHz := 800000
    bitsPerChannel := 8, channelsPerLed := 3
    order := { slot0 := .g, slot1 := .r, slot2 := .b, slot3 := .r }
    numLeds := leds, bufferCapacity := capacity, latchIdleClks := gap, busClocks := [6400000] }

/-- The configuration `State.reset` samples, DESIGN CHOICE (log 2): the calibration profile with the `NUM_LEDS = 3` of
95_test_vectors.md, the smallest capacity that holds it, and the smallest gap R11 admits. -/
def Config.atReset : Config := Config.calibration 3 72 ⟨1, Nat.le_refl 1⟩

end Sys2Proof
end

