-- ==== Sys2Proof/Machine/State.lean ====
section
/-! DEFINITION. The state of the encoder block (10_state.md), its outcomes, and `State.reset`. State is plain data. -/

namespace Sys2Proof.Machine

/-- A host's name. `HOSTS` is a parameter (R18): any set of hosts is a set of these names (log 4). -/
abbrev HostId := Nat

/-- The response codes of R69; 5 to 15 are never produced, so no constructor stands for them. -/
inductive RespCode where
  | ok
  | outOfRange
  | transportError
  | illegalCommand
  | notReady
  deriving DecidableEq, Repr

/-- A response (R68): code, detail, and 32 data bytes. -/
structure Response where
  code : RespCode
  detail : Byte
  data : List Byte
  deriving DecidableEq, Repr

/-- What a frame's command will be answered (R25, R100): `OK` or `TRANSPORT_ERROR(c)`. -/
inductive FrameResult where
  | ok
  | transportError (c : Byte)
  deriving DecidableEq, Repr

/-- The owner `o` of a gap and the response `r` it waits for (R25): both are there or neither is. -/
structure GapOwner where
  host : HostId
  result : FrameResult
  deriving DecidableEq, Repr

/-- `phase` (R25): `Idle`, `Tx(h, k)`, `Gap(o, n, r)`; `gap n none` is the gap after reset. -/
inductive Phase where
  | idle
  | tx (h : HostId) (k : Nat)
  | gap (n : Nat) (owner : Option GapOwner)
  deriving DecidableEq, Repr

/-- The completion flag of a frame (R28); `inProgress` from R87's start until it is complete or aborted. -/
inductive FrameStatus where
  | inProgress
  | complete
  | aborted
  deriving DecidableEq, Repr

/-- An entry of `frames` (R28): the bits emitted on `DOUT`, first bit first, and the flag; or a `reset` marker (R131). -/
inductive FrameEntry where
  | frame (bits : List Bool) (status : FrameStatus)
  | reset
  deriving DecidableEq, Repr

/-- An entry of `responses` (R28): host, command word, response; or a `reset` marker (R131). -/
inductive ResponseEntry where
  | answer (h : HostId) (w : Word) (resp : Response)
  | reset
  deriving DecidableEq, Repr

/-- What a register read returns (R107): a 32-bit value, or `BUS_ERROR` and no data. -/
inductive ReadResult where
  | value (v : Reg32)
  | busError
  deriving DecidableEq, Repr

/-- One answered register read: who asked for which offset at which width, and what came back (log 14). -/
structure ReadEntry where
  h : HostId
  off : Nat
  width : Nat
  result : ReadResult
  deriving DecidableEq, Repr

/-- One step of one agent of R18. -/
inductive Action where
  /-- Host `h` puts command word `w` on its port (R52). -/
  | offer (h : HostId) (w : Word)
  /-- The engine accepts the command waiting at host `h`'s port (R83). -/
  | accept (h : HostId)
  /-- Host `h` reads the register at `off` with `width` bits (R107). -/
  | read (h : HostId) (off : Nat) (width : Nat)
  /-- One bus clock period (R93); `hold` keeps the line low before bit 0 (R96) and means nothing elsewhere. -/
  | period (hold : Bool)
  /-- The transport fault `FAULT(c)` (R102). -/
  | fault (c : Byte)
  /-- The reset input is asserted (R126). -/
  | assertReset
  /-- The reset input is released and the configuration sampled (R126, R129). -/
  | releaseReset (c : Config)
  deriving DecidableEq, Repr

/-- Why `set_led` did not write (R85). -/
inductive SetLedError where
  /-- `index >= NUM_LEDS`: the spec's OUT_OF_RANGE. -/
  | outOfRange
  /-- The region at this address is not in the buffer (R16's condition on MemWrite); no state the block reaches has one. -/
  | noRegion (addr : Nat)
  deriving DecidableEq, Repr

/-- How the machine stops. No state that keeps `State.Inv` (Safety.lean) reaches either; the spec has no such event. -/
inductive Fault where
  /-- A serializer or set_led access at an address the strip buffer does not have (R16, R21); raised by `State.txPeriod` and
  SET_BRIGHTNESS. SAFE: the model stops where the spec defines no access (log 13). -/
  | outsideStripBuffer (addr : Nat)
  /-- A latch gap ended for host `h`, which has no command outstanding (R100 reads `outstanding(h)`); raised by
  `State.gapEnd`. SAFE: the model stops where the spec has no word to answer (log 13). -/
  | noOutstandingCommand (h : HostId)
  deriving DecidableEq, Repr

/-- Why an instruction has no meaning. Every command of this block has one. -/
inductive Refusal where
  /-- An instruction without a meaning yet, by its mnemonic; raised by no arm of `exec`. SAFE: nothing is claimed of it. -/
  | notModelled (mnemonic : String)
  deriving DecidableEq, Repr

/-- Everything the spec gives the block, the commands waiting at its ports, and the model's own bookkeeping. -/
structure State where
  /-- the configuration sampled at the last reset release (R126; log 1) -/
  cfg : Config
  /-- `ready` (R24) -/
  ready : Bool
  /-- `init_err` (R24) -/
  initErr : InitErr
  /-- the strip buffer (R21): the cells that differ from `ZERO_SYMBOL`, addresses rising (log 12) -/
  buf : List Host.Cell
  /-- the ghost LED state (R22): `led[i][k]` at key `i * CHANNELS_PER_LED + k`, the cells that differ from 0 (log 15) -/
  led : List Host.Cell
  /-- `phase` (R25) -/
  phase : Phase
  /-- `DOUT` (R26): the level in the bus clock period just past (log 18) -/
  dout : Bool
  /-- `outstanding` (R27): the hosts with an accepted, unanswered command and its word, hosts rising -/
  outstanding : List (HostId × Word)
  /-- the commands offered and not yet accepted, hosts rising (R53; log 7) -/
  waiting : List (HostId × Word)
  /-- MODEL'S OWN: the host `h` of the acceptance step under way (R83; log 8) -/
  serving : HostId
  /-- the reset input is asserted (R126) -/
  resetAsserted : Bool
  /-- `frames` (R28) -/
  frames : List FrameEntry
  /-- `responses` (R28) -/
  responses : List ResponseEntry
  /-- MODEL'S OWN: the answers of the register port, in order (log 14) -/
  reads : List ReadEntry
  /-- MODEL'S OWN: what the agents do next, in order (log 5) -/
  agenda : List Action
  /-- MODEL'S OWN: how many steps the block has chosen by itself, the index of the free values (log 6) -/
  draws : Nat
  /-- MODEL'S OWN: how many periods are left to pass before the block's next own choice, once drawn (log 6) -/
  delay : Option Nat
  deriving DecidableEq, Repr

/-- The state right after a reset release that follows power-on and samples `c` (R128, R129, R131): 10_state.md section 7. -/
def State.powerOn (c : Config) : State :=
  { cfg := c
    ready := c.initReady
    initErr := c.initCheck
    buf := []
    led := []
    phase := if c.initReady then .gap c.latch none else .idle
    dout := false
    outstanding := []
    waiting := []
    serving := 0
    resetAsserted := false
    frames := []
    responses := []
    reads := []
    agenda := []
    draws := 0
    delay := none }

/-- The machine right after reset, for the configuration log 2 names. -/
def State.reset : State := State.powerOn Config.atReset

end Sys2Proof.Machine
end

