-- ==== Sys2Proof/Machine/Ops.lean ====
section
/-! DEFINITION. The named operations every agent's step is made of: canonical sparse lists, the strip buffer (R16), the ghost
LED state, the histories (R28), the command ports (R27, R53), answering a command and raising an error (R16, R83), the
agenda. -/

namespace Sys2Proof.Machine

/-! ## Canonical sparse lists: keys strictly rising -/

/-- The value listed at key `a`. -/
def Sparse.get {α : Type} : List (Nat × α) → Nat → Option α
  | [], _ => none
  | (k, v) :: m, a => if a = k then some v else Sparse.get m a

/-- List `v` at key `a`, in place of what stood there. -/
def Sparse.put {α : Type} : List (Nat × α) → Nat → α → List (Nat × α)
  | [], a, v => [(a, v)]
  | (k, u) :: m, a, v =>
    if a < k then (a, v) :: (k, u) :: m
    else if a = k then (a, v) :: m
    else (k, u) :: Sparse.put m a v

/-- Unlist key `a`. -/
def Sparse.erase {α : Type} (m : List (Nat × α)) (a : Nat) : List (Nat × α) :=
  m.filter fun c => decide (c.1 ≠ a)

/-- The canonical form of keys: strictly rising. -/
abbrev Sparse.Sorted {α : Type} (m : List (Nat × α)) : Prop := m.Pairwise fun x y => x.1 < y.1

/-- The byte at `a`, where an unlisted address reads as `d`. -/
def Memory.read (d : Byte) (m : List Host.Cell) (a : Nat) : Byte := (Sparse.get m a).getD d

/-- Write one byte; writing what an unlisted address reads as unlists it. -/
def Memory.write (d : Byte) (m : List Host.Cell) (a : Nat) (v : Byte) : List Host.Cell :=
  if v = d then Sparse.erase m a else Sparse.put m a v

/-- Write a byte sequence at rising addresses from `a`. -/
def Memory.writeBytes (d : Byte) (m : List Host.Cell) (a : Nat) : List Byte → List Host.Cell
  | [] => m
  | b :: bs => Memory.writeBytes d (Memory.write d m a b) (a + 1) bs

/-- The byte sequence of length `n` from `a`. -/
def Memory.readBytes (d : Byte) (m : List Host.Cell) (a n : Nat) : List Byte :=
  (List.range n).map fun j => Memory.read d m (a + j)

/-- The canonical form of a memory: addresses strictly rising, and no entry equal to what an unlisted address reads as. -/
abbrev Memory.wf (d : Byte) (m : List Host.Cell) : Prop := Sparse.Sorted m ∧ ∀ c ∈ m, c.2 ≠ d

/-! ## The strip buffer (R21) and the LED state (R22) -/

/-- The bytes the strip buffer has: `FRAME_BYTES` while `ready = 1`, none otherwise (R21). -/
def State.bufSize (s : State) : Nat := if s.ready then s.cfg.frameBytes else 0

/-- `buf[a]`, or `none` where the buffer has no byte `a`; a byte nothing has written is `ZERO_SYMBOL` (R21). -/
def State.memByte (s : State) (a : Nat) : Option Byte :=
  if a < s.bufSize then some (Memory.read s.cfg.zeroSymbol s.buf a) else none

/-- `MemRead(a, n)` (R16), defined only inside the buffer. -/
def State.memRead (s : State) (a n : Nat) : Option (List Byte) :=
  if a + n ≤ s.bufSize then some (Memory.readBytes s.cfg.zeroSymbol s.buf a n) else none

/-- `MemWrite(a, n, bs)` (R16), defined only for `n` bytes inside the buffer. -/
def State.memWrite (s : State) (a n : Nat) (bs : List Byte) : Option State :=
  if bs.length = n ∧ a + n ≤ s.bufSize then
    some { s with buf := Memory.writeBytes s.cfg.zeroSymbol s.buf a bs }
  else none

/-- `led[i][k]` (R22); a channel nothing has set is 0. -/
def State.ledValue (s : State) (i k : Nat) : Byte := Memory.read 0 s.led (i * s.cfg.channels + k)

/-- `led[i][k] <- vs[k]` for the channels of LED `i` (R85). -/
def State.setLedValues (s : State) (i : Nat) (vs : List Byte) : State :=
  { s with led := Memory.writeBytes 0 s.led (i * s.cfg.channels) vs }

/-! ## Phase, line and histories -/

/-- `phase <- p` -/
def State.withPhase (s : State) (p : Phase) : State := { s with phase := p }

/-- `DOUT <- b` -/
def State.withDout (s : State) (b : Bool) : State := { s with dout := b }

/-- Change the last entry of a history, if there is one. -/
def updateLast {α : Type} (f : α → α) : List α → List α
  | [] => []
  | [e] => [f e]
  | e :: e' :: es => e :: updateLast f (e' :: es)

/-- Append an emitted bit to a frame entry (R95). -/
def FrameEntry.push (b : Bool) : FrameEntry → FrameEntry
  | .frame bits st => .frame (bits ++ [b]) st
  | .reset => .reset

/-- Set a frame entry's completion flag (R95, R102); its bits stay. -/
def FrameEntry.mark (st : FrameStatus) : FrameEntry → FrameEntry
  | .frame bits _ => .frame bits st
  | .reset => .reset

/-- A new frame, no bit emitted yet: `frames ++ [([], in progress)]` (R87). -/
def State.openFrame (s : State) : State := { s with frames := s.frames ++ [.frame [] .inProgress] }

/-- `emit(b)` (R16, R95): the line holds `b`, and the last entry of `frames` gains it. -/
def State.emit (s : State) (b : Bool) : State :=
  { s with dout := b, frames := updateLast (FrameEntry.push b) s.frames }

/-- Mark the last entry of `frames` (R95, R102, R127). -/
def State.markFrame (s : State) (st : FrameStatus) : State :=
  { s with frames := updateLast (FrameEntry.mark st) s.frames }

/-! ## Answering a command (R83), raising an error (R16) -/

/-- The response codes' numbers (R69). -/
def RespCode.code : RespCode → BitVec 4
  | .ok => 0
  | .outOfRange => 1
  | .transportError => 2
  | .illegalCommand => 3
  | .notReady => 4

/-- 32 bytes 0x00 (R83). -/
def zeros : List Byte := List.replicate 32 0

/-- Result bytes from `data[0]`, 0x00 in every byte past them (R68, R77, R82). -/
def padData (bs : List Byte) : List Byte := bs ++ List.replicate (32 - bs.length) 0

/-- `finish(h, w, code, detail, data)` (R83): one response recorded, the host free to go on. -/
def State.finish (s : State) (h : HostId) (w : Word) (code : RespCode) (detail : Byte) (data : List Byte) : State :=
  { s with
    responses := s.responses ++ [.answer h w { code := code, detail := detail, data := data }]
    outstanding := Sparse.erase s.outstanding h }

/-- `respond(code, detail, data)` (R16) by the command under way: word `w` of the host being served. -/
def State.respond (s : State) (w : Word) (code : RespCode) (detail : Byte) (data : List Byte) : State :=
  s.finish s.serving w code detail data

/-- `raise E(detail)` (R16): THE ONE way a command ends in an error at acceptance, its data all zero. No other state
changes, no mode is entered and no control is transferred (R119). -/
def State.raise (s : State) (w : Word) (e : RespCode) (detail : Byte) : State := s.respond w e detail zeros

/-- The first test of R67's decode, made by every command (R110, R117): `NOT_READY` while `ready = 0`, else `body`. -/
def State.whenReady (s : State) (w : Word) (body : Host.Outcome State Fault Refusal) :
    Host.Outcome State Fault Refusal :=
  if s.ready then body else .next (s.raise w .notReady 0)

/-! ## The command ports (R27, R52, R53) -/

/-- `outstanding(h)` (R27). -/
def State.outstandingOf (s : State) (h : HostId) : Option Word := Sparse.get s.outstanding h

/-- The command waiting at host `h`'s port. -/
def State.waitingOf (s : State) (h : HostId) : Option Word := Sparse.get s.waiting h

/-- Host `h` puts `w` on its port. The port is blocking (R27, R52): a host whose last command waits or is outstanding issues
none, so nothing happens then (log 7). -/
def State.offer (s : State) (h : HostId) (w : Word) : State :=
  if s.waitingOf h = none ∧ s.outstandingOf h = none then { s with waiting := Sparse.put s.waiting h w } else s

/-- `outstanding(h) <- w`, the first line of `accept(h, w)` (R83): host `h` is being served and waits no longer. -/
def State.take (s : State) (h : HostId) (w : Word) : State :=
  { s with outstanding := Sparse.put s.outstanding h w, waiting := Sparse.erase s.waiting h, serving := h }

/-- The word `accept(h, w)` would take: acceptance is enabled only in `Idle`, for a command that waits, from a host with
none outstanding (R83). -/
def State.acceptable (s : State) (h : HostId) : Option Word :=
  if s.phase = .idle ∧ s.outstandingOf h = none then s.waitingOf h else none

/-! ## Who moves next (log 5, log 6) -/

/-- Does the block have an open choice to make: when to accept a command that waits (R53), when to emit bit 0 (R96)? -/
def State.choosing (s : State) : Bool :=
  match s.phase with
  | .idle => !s.waiting.isEmpty
  | .tx _ 0 => true
  | .tx _ (_ + 1) => false
  | .gap _ _ => false

/-- The periods that pass before that choice takes effect: what is left of the number drawn, or a FREE VALUE drawn now. It
is finite (R96, and the weak fairness of R53 and R138). -/
def State.delayLeft (s : State) : Nat := s.delay.getD (Config.delay s.draws)

/-- `delay` after a step of the block's own: one period less while a choice waits, drawn afresh after each choice. -/
def State.delayNext (s : State) : Option Nat :=
  if s.choosing then (if s.delayLeft = 0 then none else some (s.delayLeft - 1)) else s.delay

/-- The action the block takes by itself where the agenda is empty and no input comes: once the delay is over, in `Idle` the
engine accepts one of the commands waiting, by a FREE VALUE (R53), and in `Tx(h, 0)` the serializer emits bit 0 (R96); else
one bus clock period. -/
def State.ownAction (s : State) : Action :=
  match s.phase with
  | .idle =>
    match s.delayLeft, s.waiting[Config.arbitrate s.draws % s.waiting.length]? with
    | 0, some c => .accept c.1
    | 0, none => .period false
    | _ + 1, _ => .period false
  | .tx _ 0 => .period (decide (0 < s.delayLeft))
  | .tx _ (_ + 1) => .period false
  | .gap _ _ => .period false

/-- The next action of any agent. -/
def State.nextAction (s : State) : Action :=
  match s.agenda with
  | [] => s.ownAction
  | a :: _ => a

/-- The state once its next action has been taken off the agenda, or chosen by the block itself. -/
def State.popAction (s : State) : State :=
  match s.agenda with
  | [] => { s with draws := s.draws + 1, delay := s.delayNext }
  | _ :: rest => { s with agenda := rest }

end Sys2Proof.Machine
end

