-- ==== Sys2Proof/Machine/Flags.lean ====
section
/-! DEFINITION. The block has no flags beyond the STATUS fields (R36); this is how each is computed (R29). -/

namespace Sys2Proof.Machine

/-- STATUS bit 0 `BUSY`: 1 if `phase != Idle` (R29). -/
def State.busyBit (s : State) : BitVec 1 := if s.phase = .idle then 0 else 1

/-- STATUS bit 1 `READY = ready` (R29). -/
def State.readyBit (s : State) : BitVec 1 := if s.ready then 1 else 0

/-- STATUS bits 3:2 `INIT_ERR = init_err` (R29). -/
def State.initErrBits (s : State) : BitVec 2 := s.initErr.code

/-- STATUS (R29): bits 31:4 read as 0. -/
def State.statusReg (s : State) : Reg32 := (0 : BitVec 28) ++ s.initErrBits ++ s.readyBit ++ s.busyBit

end Sys2Proof.Machine
end

