-- ==== Sys2Proof/Machine/Control.lean ====
section
/-! DEFINITION. 44_control.md: NOP (R106) and the register port (R107) over the map of 10_state.md section 5. -/

namespace Sys2Proof.Machine

/-- NOP (R106): `respond(OK, 0, [0x00] * 32)`, `NOT_READY` while `ready = 0`. -/
def execNop (ignored : BitVec 56) (s : State) : Host.Outcome State Fault Refusal :=
  let w := encode (.nop ignored)
  s.whenReady w (.next (s.respond w .ok 0 zeros))

/-- The role code in slot `k` of PROFILE's CHANNEL_ORDER: 0 for `k >= CHANNELS_PER_LED` (R30). -/
def orderSlot (c : Config) (k : Nat) (q : Role) : BitVec 2 := if k < c.channels then q.code else 0

/-- PROFILE (R30). -/
def profileReg (c : Config) : Reg32 :=
  orderSlot c 3 c.order.slot3 ++ orderSlot c 2 c.order.slot2 ++ orderSlot c 1 c.order.slot1 ++ orderSlot c 0 c.order.slot0
    ++ c.channelsPerLed ++ c.bitsPerChannel ++ c.oneSymbol ++ c.zeroSymbol

/-- PIXEL_SIZE (R34): bits 7:0 the product mod 256, bits 31:8 zero. -/
def pixelSizeReg (c : Config) : Reg32 := (0 : BitVec 24) ++ BitVec.ofNat 8 (c.pixelSymbolSize % 256)

/-- `reg(off)` (R46): the register at a 4-aligned offset; 0x018 to 0xFFC read as 0 (R35). -/
def State.reg (s : State) (off : Nat) : Reg32 :=
  if off = 0x000 then s.statusReg
  else if off = 0x004 then profileReg s.cfg
  else if off = 0x008 then s.cfg.numLeds
  else if off = 0x00C then s.cfg.busFreqHz
  else if off = 0x010 then s.cfg.nativeBitRateHz
  else if off = 0x014 then pixelSizeReg s.cfg
  else 0

/-- `read(off, width)` (R107): `BUS_ERROR` for another width, a misaligned offset, an offset past 0xFFC. -/
def State.readReg (s : State) (off width : Nat) : ReadResult :=
  if width ≠ 32 ∨ off % 4 ≠ 0 ∨ off > 0xFFC then .busError else .value (s.reg off)

/-- A register read by host `h`: the answer is given, nothing of the block changes (R45, R107; log 14). -/
def State.answerRead (s : State) (h : HostId) (off width : Nat) : State :=
  { s with reads := s.reads ++ [{ h := h, off := off, width := width, result := s.readReg off width }] }

end Sys2Proof.Machine
end

