-- ==== Sys2Proof/Machine/Reset.lean ====
section
/-! DEFINITION. 70_reset_and_hazards.md section 1: the reset input asserted (R126, R127, R131) and released (R128, R129). -/

namespace Sys2Proof.Machine

/-- A frame on the line is marked aborted (R127). -/
def State.abortFrame (s : State) : State :=
  match s.phase with
  | .tx _ _ => s.markFrame .aborted
  | .gap _ _ => s
  | .idle => s

/-- Reset asserted (R126, R127): the line is low, a frame stops and is aborted, every command in flight is dropped without
a response, and each history gains its marker (R131); log 11. -/
def State.assertReset (s : State) : State :=
  { s.abortFrame with
    phase := .idle
    dout := false
    outstanding := []
    waiting := []
    resetAsserted := true
    frames := s.abortFrame.frames ++ [.reset]
    responses := s.responses ++ [.reset] }

/-- `reset_release()` (R129) sampling configuration `c` (R126): every piece of state at its reset value, the histories kept
(R131), and the agents' agenda going on. -/
def State.releaseReset (s : State) (c : Config) : State :=
  { State.powerOn c with
    frames := s.frames
    responses := s.responses
    reads := s.reads
    agenda := s.agenda
    draws := s.draws }

/-- While reset is asserted the block takes no step (R126) and every other event is discarded (R118): only the release acts. -/
def State.performInReset (s : State) : Action → State
  | .releaseReset c => s.releaseReset c
  | .offer _ _ => s
  | .accept _ => s
  | .read _ _ _ => s
  | .period _ => s
  | .fault _ => s
  | .assertReset => s

end Sys2Proof.Machine
end

