-- ==== Sys2Proof/Machine/Serializer.lean ====
section
/-! DEFINITION. 43_serializer.md: one bus clock period in each phase (R93 to R100) and the transport fault (R102). -/

namespace Sys2Proof.Machine

/-- `bit(j) = F[j div 8][7 - (j mod 8)]` (R95), read from the buffer (R94); `none` past its end. -/
def State.frameBit (s : State) (j : Nat) : Option Bool := (s.memByte (j / 8)).map fun b => b.getLsbD (7 - j % 8)

/-- A low period: `DOUT <- 0` (R98). -/
def State.lowPeriod (s : State) : State := s.withDout false

/-- `tick_tx(h, k)` (R95): emit bit `k`, then the next bit or, after the last, the complete frame's gap. -/
def State.emitBit (s : State) (h : HostId) (k : Nat) (b : Bool) : State :=
  if k + 1 < s.cfg.frameBits then (s.emit b).withPhase (.tx h (k + 1))
  else ((s.emit b).markFrame .complete).withPhase (.gap s.cfg.latch (some { host := h, result := .ok }))

/-- A period with `phase = Tx(h, k)`: before bit 0 the line may be held low (R96); from bit 0 on every period emits. -/
def State.txPeriod (s : State) (h : HostId) (k : Nat) (hold : Bool) : Host.Outcome State Fault Refusal :=
  if k = 0 ∧ hold = true then .next s.lowPeriod
  else
    match s.frameBit k with
    | some b => .next (s.emitBit h k b)
    | none => .fault (.outsideStripBuffer (k / 8))

/-- The code of the response `r` of a gap (R100). -/
def FrameResult.code : FrameResult → RespCode
  | .ok => .ok
  | .transportError _ => .transportError

/-- The detail of the response `r` of a gap (R100, R113): the fault's code unchanged, 0 for `OK`. -/
def FrameResult.detail : FrameResult → Byte
  | .ok => 0
  | .transportError c => c

/-- `gap_end(o, r)` (R100): the owner, if there is one, is answered for its outstanding word; then `Idle`. -/
def State.gapEnd (s : State) : Option GapOwner → Host.Outcome State Fault Refusal
  | none => .next (s.withPhase .idle)
  | some o =>
    match s.outstandingOf o.host with
    | some w => .next ((s.finish o.host w o.result.code o.result.detail zeros).withPhase .idle)
    | none => .fault (.noOutstandingCommand o.host)

/-- `tick_gap(o, n, r)` (R99). -/
def State.gapPeriod (s : State) (n : Nat) (owner : Option GapOwner) : Host.Outcome State Fault Refusal :=
  if n > 1 then .next (s.lowPeriod.withPhase (.gap (n - 1) owner)) else s.lowPeriod.gapEnd owner

/-- One bus clock period (R93), in the phase the state is in; in `Idle` the line is low (R98). -/
def State.period (s : State) (hold : Bool) : Host.Outcome State Fault Refusal :=
  match s.phase with
  | .idle => .next s.lowPeriod
  | .tx h k => s.txPeriod h k hold
  | .gap n owner => s.gapPeriod n owner

/-- `fault(c)` (R102): aborts the frame on the line, or changes the response that waits for the gap's end; the first fault of
a frame is the only one that counts, and elsewhere a fault has no effect. -/
def State.transportFault (s : State) (c : Byte) : State :=
  match s.phase with
  | .tx h _ => (s.markFrame .aborted).withPhase (.gap s.cfg.latch (some { host := h, result := .transportError c }))
  | .gap n (some { host := h, result := .ok }) =>
    s.withPhase (.gap n (some { host := h, result := .transportError c }))
  | .gap _ (some { host := _, result := .transportError _ }) => s
  | .gap _ none => s
  | .idle => s

end Sys2Proof.Machine
end

