-- ==== Sys2Proof/Machine/Agents.lean ====
section
/-! DEFINITION. The steps of the agents of R18 other than an acceptance, and the word an acceptance takes. -/

namespace Sys2Proof.Machine

/-- The host and the word of the command the next step accepts (R83): reset is released, the next action is an acceptance,
and it is enabled. -/
def State.accepted (s : State) : Option (HostId × Word) :=
  if s.resetAsserted then none
  else
    match s.nextAction with
    | .accept h => (s.acceptable h).map fun w => (h, w)
    | .offer _ _ => none
    | .read _ _ _ => none
    | .period _ => none
    | .fault _ => none
    | .assertReset => none
    | .releaseReset _ => none

/-- One step of an agent that runs no command. An acceptance comes here only when it is not enabled: the host is stalled
(R53, R83). A release with no reset asserted is no event. -/
def State.perform (s : State) : Action → Host.Outcome State Fault Refusal
  | .offer h w => .next (s.offer h w)
  | .accept _ => .next s
  | .read h off width => .next (s.answerRead h off width)
  | .period hold => s.period hold
  | .fault c => .next (s.transportFault c)
  | .assertReset => .next s.assertReset
  | .releaseReset _ => .next s

/-- The step of any agent but an acceptance, in reset or out of it (R118, R126). -/
def State.environmentStep (s : State) : Host.Outcome State Fault Refusal :=
  if s.resetAsserted then .next (s.popAction.performInReset s.nextAction)
  else s.popAction.perform s.nextAction

/-- `s` with command `w` waiting at host 0's port, the engine idle and free for host 0, and its acceptance next (log 17). -/
def State.withCommand (s : State) (w : Word) : State :=
  { s with
    resetAsserted := false
    phase := .idle
    outstanding := Sparse.erase s.outstanding 0
    waiting := Sparse.put s.waiting 0 w
    agenda := .accept 0 :: s.agenda }

end Sys2Proof.Machine
end

