-- ==== Sys2Proof/Machine/Illegal.lean ====
section
/-! DEFINITION. The words that spell no command: reserved opcodes (R65) and nonzero reserved bits (R64). Each is answered
`ILLEGAL_COMMAND` with no other effect (R111), or `NOT_READY` while `ready = 0` (R110, R117). -/

namespace Sys2Proof.Machine

/-- `ILLEGAL_COMMAND`, detail 0, no other effect (R83, R111), behind the `ready` test of R67. -/
def State.answerIllegal (s : State) (w : Word) : Host.Outcome State Fault Refusal :=
  s.whenReady w (.next (s.raise w .illegalCommand 0))

/-- Opcodes 0x4 to 0x7 (R65). -/
def execReserved4to7 (op : BitVec 4) (rest : BitVec 56) (s : State) : Host.Outcome State Fault Refusal :=
  s.answerIllegal (encode (.reserved4to7 op rest))

/-- Opcodes 0x8 to 0xF (R65). -/
def execReserved8toF (op : BitVec 4) (rest : BitVec 56) (s : State) : Host.Outcome State Fault Refusal :=
  s.answerIllegal (encode (.reserved8toF op rest))

/-- Reserved bit 4 set (R64). -/
def execIllegalRsv4 (op rsv : BitVec 4) (rest : BitVec 56) (s : State) : Host.Outcome State Fault Refusal :=
  s.answerIllegal (encode (.illegalRsv4 op rsv rest))

/-- Reserved bit 5 set (R64). -/
def execIllegalRsv5 (op rsv : BitVec 4) (rest : BitVec 56) (s : State) : Host.Outcome State Fault Refusal :=
  s.answerIllegal (encode (.illegalRsv5 op rsv rest))

/-- Reserved bit 6 set (R64). -/
def execIllegalRsv6 (op rsv : BitVec 4) (rest : BitVec 56) (s : State) : Host.Outcome State Fault Refusal :=
  s.answerIllegal (encode (.illegalRsv6 op rsv rest))

/-- Reserved bit 7 set (R64). -/
def execIllegalRsv7 (op rsv : BitVec 4) (rest : BitVec 56) (s : State) : Host.Outcome State Fault Refusal :=
  s.answerIllegal (encode (.illegalRsv7 op rsv rest))

end Sys2Proof.Machine
end

