-- ==== Sys2Proof/Machine/Operands.lean ====
section
/-! DEFINITION. Operand assembly (30_encoding.md section 2). Every operand is a field of the command word (R20); there is one
operand form. -/

namespace Sys2Proof.Machine

/-- `index = zext_32(w[31:8])` (R60): unsigned, not scaled, not sign extended. -/
def ledIndex (index : BitVec 24) : Nat := (index.setWidth 32).toNat

/-- `val(q)` (R61): the value operand of role `q`. -/
def valOf (vals : ChannelValues) : Role → Byte
  | .r => vals.r
  | .g => vals.g
  | .b => vals.b
  | .w => vals.w

/-- The value operands in wire order: `val(ORDER[k])` at position `k` (R78, R85); other roles are not read (R66). -/
def wireVals (c : Config) (vals : ChannelValues) : List Byte := c.wireOrder.map (valOf vals)

end Sys2Proof.Machine
end

