-- ==== Sys2Proof/Machine/Encoder.lean ====
section
/-! DEFINITION. 40_encoder.md: the subpixel encoder (R72), its inverse in claims (R75), the command ENCODE (R77). -/

namespace Sys2Proof.Machine

/-- The symbol of one source bit (R72). -/
def symbolOf (c : Config) (b : Bool) : Byte := if b then c.oneSymbol else c.zeroSymbol

/-- The loop of R72: `n` times, emit the symbol of `x[7]`, then `x <- x << 1`. -/
def encodeLoop (c : Config) : Nat → Byte → List Byte
  | 0, _ => []
  | n + 1, x => symbolOf c (x.getLsbD 7) :: encodeLoop c n (x <<< 1)

/-- `encode(v)` (R72): eight symbols, most significant source bit first. -/
def encodeSymbols (c : Config) (v : Byte) : List Byte := encodeLoop c 8 v

/-- The source bit a symbol stands for (R75): none for a byte that is neither symbol. -/
def bitOfSymbol (c : Config) (b : Byte) : Option Bool :=
  if b = c.oneSymbol then some true else if b = c.zeroSymbol then some false else none

/-- The source bits of a symbol sequence, in order. -/
def bitsOfSymbols (c : Config) : List Byte → Option (List Bool)
  | [] => some []
  | b :: bs =>
    match bitOfSymbol c b, bitsOfSymbols c bs with
    | some x, some xs => some (x :: xs)
    | _, _ => none

/-- The byte whose bits are given, most significant first. -/
def byteOfBits (bits : List Bool) : Byte := bits.foldl (fun acc b => (acc <<< 1) ||| (if b then 1 else 0)) 0

/-- `decode(s)` (R75), a function of the specification only: defined on eight bytes each one of the two symbols. -/
def decodeSymbols (c : Config) (s : List Byte) : Option Byte :=
  if s.length = 8 then (bitsOfSymbols c s).map byteOfBits else none

/-- ENCODE (R77): `respond(OK, 0, encode(v) ++ [0x00] * 24)`, `NOT_READY` while `ready = 0`. -/
def execEncode (value : Byte) (ignoredLo ignoredHi : BitVec 24) (s : State) : Host.Outcome State Fault Refusal :=
  let w := encode (.encode value ignoredLo ignoredHi)
  s.whenReady w (.next (s.respond w .ok 0 (padData (encodeSymbols s.cfg value))))

end Sys2Proof.Machine
end

