-- ==== Sys2Proof/Machine/Formatter.lean ====
section
/-! DEFINITION. 41_formatter.md: the pixel formatter (R78) and the command FORMAT (R82). -/

namespace Sys2Proof.Machine

/-- `format_wire(v) = encode(v[0]) ++ encode(v[1]) ++ ...` (R23): values already in wire order. -/
def formatWire (c : Config) (vs : List Byte) : List Byte := vs.flatMap (encodeSymbols c)

/-- `format(val)` (R78): lane `k` is `encode(val(ORDER[k]))`. -/
def formatPixel (c : Config) (vals : ChannelValues) : List Byte := formatWire c (wireVals c vals)

/-- FORMAT (R82): `respond(OK, 0, format(val) ++ [0x00] * (32 - PIXEL_SYMBOL_SIZE))`, `NOT_READY` while `ready = 0`. -/
def execFormat (vals : ChannelValues) (ignored : BitVec 24) (s : State) : Host.Outcome State Fault Refusal :=
  let w := encode (.format vals ignored)
  s.whenReady w (.next (s.respond w .ok 0 (padData (formatPixel s.cfg vals))))

end Sys2Proof.Machine
end

