-- ==== Sys2Proof/Machine/Strip.lean ====
section
/-! DEFINITION. 42_set_brightness.md: the region update (R85) and the command SET_BRIGHTNESS (R87). -/

namespace Sys2Proof.Machine

/-- The byte offset of LED `i`'s region (R46): `i * PIXEL_SYMBOL_SIZE`. -/
def regionStart (c : Config) (i : Nat) : Nat := i * c.pixelSymbolSize

/-- `set_led(index, val)` (R85): the range test before any mutation, then the ghost values and the region. -/
def State.setLed (s : State) (i : Nat) (vals : ChannelValues) : Except SetLedError State :=
  if i ≥ s.cfg.leds then .error .outOfRange
  else
    match (s.setLedValues i (wireVals s.cfg vals)).memWrite (regionStart s.cfg i) s.cfg.pixelSymbolSize
        (formatPixel s.cfg vals) with
    | some s' => .ok s'
    | none => .error (.noRegion (regionStart s.cfg i))

/-- `frames <- frames ++ [([], in progress)]; phase <- Tx(h, 0)` for the host being served (R87). -/
def State.startFrame (s : State) : State := s.openFrame.withPhase (.tx s.serving 0)

/-- SET_BRIGHTNESS (R87): `NOT_READY` while `ready = 0`; `OUT_OF_RANGE` before any mutation and with no frame (R88); else the
region is rewritten and the frame of the whole buffer starts. The response comes when the gap ends (R100). -/
def execSetBrightness (index : BitVec 24) (vals : ChannelValues) (s : State) : Host.Outcome State Fault Refusal :=
  let w := encode (.setBrightness index vals)
  s.whenReady w
    (match s.setLed (ledIndex index) vals with
    | .error .outOfRange => .next (s.raise w .outOfRange 0)
    | .error (.noRegion a) => .fault (.outsideStripBuffer a)
    | .ok s' => .next s'.startFrame)

end Sys2Proof.Machine
end

