-- ==== Sys2Proof/Machine/Dispatch.lean ====
section
/-! DEFINITION. One arm per command: the `case decode(w) of` of acceptance (R83). -/

namespace Sys2Proof.Machine

def exec (i : Instr) (s : State) : Host.Outcome State Fault Refusal :=
  match i with
  | .nop ignored => Sys2Proof.Machine.execNop ignored s
  | .encode value lo hi => Sys2Proof.Machine.execEncode value lo hi s
  | .format vals ignored => Sys2Proof.Machine.execFormat vals ignored s
  | .setBrightness index vals => Sys2Proof.Machine.execSetBrightness index vals s
  | .reserved4to7 op rest => Sys2Proof.Machine.execReserved4to7 op rest s
  | .reserved8toF op rest => Sys2Proof.Machine.execReserved8toF op rest s
  | .illegalRsv4 op rsv rest => Sys2Proof.Machine.execIllegalRsv4 op rsv rest s
  | .illegalRsv5 op rsv rest => Sys2Proof.Machine.execIllegalRsv5 op rsv rest s
  | .illegalRsv6 op rsv rest => Sys2Proof.Machine.execIllegalRsv6 op rsv rest s
  | .illegalRsv7 op rsv rest => Sys2Proof.Machine.execIllegalRsv7 op rsv rest s

end Sys2Proof.Machine
end

