-- ==== Sys2Proof/Machine/Step.lean ====
section
/-! DEFINITION. One step of one agent (R18, R93). -/

namespace Sys2Proof.Machine

/-- One step: where the next action is an enabled acceptance of host `h`'s word `w`, the host is taken into service and the
decoded command runs (R83); otherwise the step of another agent. -/
def step (s : State) : Host.Outcome State Fault Refusal :=
  match s.accepted with
  | some (h, w) => exec (decodeWord w) (s.popAction.take h w)
  | none => s.environmentStep

/-- `s` with the instruction of a table row's word placed where the very next step takes its command from (log 17). -/
def State.withFetchWord (s : State) (nbits w : Nat) : State := s.withCommand (tableWord nbits w)

end Sys2Proof.Machine
end

