-- ==== Sys2Proof/Machine/Assembler.lean ====
section
/-! DEFINITION. The textual form of 30_encoding.md section 5, past its lexical level: one line (R70) or pseudo-instruction
(R71), its literals as naturals, assembled into a command word or a register read; `none` is an assembly error. -/

namespace Sys2Proof.Machine

/-- A line of assembly. Named value arguments come in any order and an omitted one is 0 (R70). -/
inductive AsmLine where
  | nop
  | encode (v : Nat)
  | format (args : List (Role × Nat))
  | setb (index : Nat) (args : List (Role × Nat))
  /-- `.cmd 0x<16 hex digits>` -/
  | cmd (w : Nat)
  /-- `read 0x<offset>`, on the register port -/
  | read (off : Nat)
  | setrgb (index r g b : Nat)
  | setrgbw (index r g b w : Nat)
  | clear (index : Nat)
  | sync
  deriving DecidableEq, Repr

/-- What a line assembles to. -/
inductive Assembled where
  | command (w : Word)
  | registerRead (off : Nat)
  deriving DecidableEq, Repr

/-- The literal of the argument named `q`, 0 if omitted (R70). -/
def argOf (args : List (Role × Nat)) (q : Role) : Nat := ((args.find? fun a => decide (a.1 = q)).map Prod.snd).getD 0

/-- Value literals are 0 to 255 and a name stands at most once (R70; log 21 for a name given twice). -/
def argsOk (args : List (Role × Nat)) : Bool :=
  decide (args.map Prod.fst).Nodup && args.all fun a => decide (a.2 ≤ 255)

/-- The value operands of a line's arguments. -/
def argVals (args : List (Role × Nat)) : ChannelValues :=
  { r := BitVec.ofNat 8 (argOf args .r), g := BitVec.ofNat 8 (argOf args .g)
    b := BitVec.ofNat 8 (argOf args .b), w := BitVec.ofNat 8 (argOf args .w) }

/-- `setb` (R70): the index from 0 to 2^24-1, unused fields and RSV 0. -/
def assembleSetb (index : Nat) (args : List (Role × Nat)) : Option Assembled :=
  if index < 2 ^ 24 ∧ argsOk args = true then
    some (.command (encode (.setBrightness (BitVec.ofNat 24 index) (argVals args))))
  else none

/-- The assembled line (R70), pseudo-instructions by their expansions (R71). -/
def assemble : AsmLine → Option Assembled
  | .nop => some (.command (encode (.nop 0)))
  | .encode v => if v ≤ 255 then some (.command (encode (.encode (BitVec.ofNat 8 v) 0 0))) else none
  | .format args => if argsOk args = true then some (.command (encode (.format (argVals args) 0))) else none
  | .setb index args => assembleSetb index args
  | .cmd w => if w < 2 ^ 64 then some (.command (BitVec.ofNat 64 w)) else none
  | .read off => some (.registerRead off)
  | .setrgb index r g b => assembleSetb index [(.r, r), (.g, g), (.b, b), (.w, 0)]
  | .setrgbw index r g b w => assembleSetb index [(.r, r), (.g, g), (.b, b), (.w, w)]
  | .clear index => assembleSetb index [(.r, 0), (.g, 0), (.b, 0), (.w, 0)]
  | .sync => some (.command (encode (.nop 0)))

end Sys2Proof.Machine
end

