-- ==== Sys2Proof/Safety.lean ====
section
/-! DEFINITION. The terms claims are stated in: the image of a frame, the invariant of R23, and `State.Inv`, what holds at
every observation point (outside an acceptance step, R84). -/

namespace Sys2Proof.Machine

/-- The bits of a byte in wire order, bit 7 first (R40). -/
def wireBits (b : Byte) : List Bool :=
  [b.getLsbD 7, b.getLsbD 6, b.getLsbD 5, b.getLsbD 4, b.getLsbD 3, b.getLsbD 2, b.getLsbD 1, b.getLsbD 0]

/-- The bytes `F = MemRead(0, FRAME_BYTES)` of a frame (R94). -/
def State.frameBytes (s : State) : List Byte := Memory.readBytes s.cfg.zeroSymbol s.buf 0 s.cfg.frameBytes

/-- All the bits of a frame of the buffer as it stands (R40, R94, R95): bytes ascending, each MSB first. -/
def State.frameImage (s : State) : List Bool := s.frameBytes.flatMap wireBits

/-- The LED values of LED `i` in wire order: `led[i]` (R22). -/
def State.ledVals (s : State) (i : Nat) : List Byte := (List.range s.cfg.channels).map (s.ledValue i)

/-- R23: every LED's region of the buffer is the encoding of its LED state (a block that is not ready has no buffer). -/
def State.ReflectsLed (s : State) : Prop :=
  s.ready = true → ∀ i, i < s.cfg.leds →
    s.memRead (regionStart s.cfg i) s.cfg.pixelSymbolSize = some (formatWire s.cfg (s.ledVals i))

/-- Reset is released and the next action is `a`. -/
def State.Turn (s : State) (a : Action) : Prop := s.resetAsserted = false ∧ s.nextAction = a

/-- Is a history entry a frame (and no `reset` marker)? -/
def FrameEntry.isFrame : FrameEntry → Bool
  | .frame _ _ => true
  | .reset => false

/-- The number of frames started so far (R51). -/
def State.framesStarted (s : State) : Nat := s.frames.countP FrameEntry.isFrame

/-- The word is an in-range SET_BRIGHTNESS for this configuration (R87, R112). -/
def startsFrame (c : Config) (w : Word) : Bool :=
  match decodeWord w with
  | .setBrightness index _ => decide (ledIndex index < c.leds)
  | .nop _ => false
  | .encode _ _ _ => false
  | .format _ _ => false
  | .reserved4to7 _ _ => false
  | .reserved8toF _ _ => false
  | .illegalRsv4 _ _ _ => false
  | .illegalRsv5 _ _ _ => false
  | .illegalRsv6 _ _ _ => false
  | .illegalRsv7 _ _ _ => false

/-- The memory of the block is in canonical form and lies inside the buffer. -/
structure State.MemOk (s : State) : Prop where
  buf_wf : Memory.wf s.cfg.zeroSymbol s.buf
  buf_inside : ∀ c ∈ s.buf, c.1 < s.bufSize
  led_wf : Memory.wf 0 s.led
  led_inside : ∀ c ∈ s.led, c.1 < s.cfg.leds * s.cfg.channels

/-- `ready` and `init_err` are what `init_check` gives for the sampled configuration (R24, R128). -/
structure State.InitOk (s : State) : Prop where
  ready_eq : s.ready = s.cfg.initReady
  initErr_eq : s.initErr = s.cfg.initCheck

/-- The command ports (R27, R52): canonical, and no host waits while its command is outstanding; none waits under reset. -/
structure State.PortsOk (s : State) : Prop where
  outstanding_sorted : Sparse.Sorted s.outstanding
  waiting_sorted : Sparse.Sorted s.waiting
  blocking : ∀ h, s.waitingOf h ≠ none → s.outstandingOf h = none
  reset_idle : s.resetAsserted = true → s.phase = .idle ∧ s.waiting = []

/-- Host `h` is the only one with a command outstanding: an in-range SET_BRIGHTNESS whose region write is in the buffer
(R49, R50, R91, R100). -/
def State.Owns (s : State) (h : HostId) : Prop :=
  ∃ index vals, s.outstanding = [(h, encode (.setBrightness index vals))] ∧ ledIndex index < s.cfg.leds ∧
    s.memRead (regionStart s.cfg (ledIndex index)) s.cfg.pixelSymbolSize = some (formatPixel s.cfg vals)

/-- No frame of the history is still in progress. -/
def NoOpenFrame (fs : List FrameEntry) : Prop := ∀ bits, FrameEntry.frame bits .inProgress ∉ fs

/-- What the last frame's entry holds while the gap of a command with result `r` runs: the whole image if it is complete, a
prefix of it if a fault aborted it (R95, R102, R103). -/
def State.FrameEnded (s : State) (r : FrameResult) (bits : List Bool) (st : FrameStatus) : Prop :=
  (st = .complete ∧ bits = s.frameImage) ∨ (r ≠ .ok ∧ st = .aborted ∧ bits <+: s.frameImage)

/-- What each phase means for the rest of the state (R25, R26, R49, R98). -/
def State.PhaseMeans (s : State) : Phase → Prop
  | .idle => s.outstanding = [] ∧ s.dout = false ∧ NoOpenFrame s.frames
  | .tx h k =>
    s.ready = true ∧ k < s.cfg.frameBits ∧ s.Owns h ∧ (k = 0 → s.dout = false) ∧
      ∃ past, s.frames = past ++ [.frame (s.frameImage.take k) .inProgress] ∧ NoOpenFrame past
  | .gap n none =>
    s.ready = true ∧ 1 ≤ n ∧ n ≤ s.cfg.latch ∧ s.outstanding = [] ∧ s.dout = false ∧ NoOpenFrame s.frames
  | .gap n (some o) =>
    s.ready = true ∧ 1 ≤ n ∧ n ≤ s.cfg.latch ∧ s.Owns o.host ∧ (n < s.cfg.latch → s.dout = false) ∧
      ∃ past bits st, s.frames = past ++ [.frame bits st] ∧ NoOpenFrame past ∧ s.FrameEnded o.result bits st

/-- The phase the state is in means what it should. -/
def State.PhaseOk (s : State) : Prop := s.PhaseMeans s.phase

/-- `d` low periods in `Tx(h, 0)` in which nothing is emitted, and then bit 0: the start latency of R96. -/
def State.StartsAfter (s : State) (h : HostId) (d : Nat) : Prop :=
  (∀ m, m ≤ d → ∃ u : State, core.run m s = .next u ∧ u.phase = .tx h 0 ∧ u.frames = s.frames ∧ (0 < m → u.dout = false))
  ∧ ∃ t : State, core.run (d + 1) s = .next t ∧ s.frameBit 0 = some t.dout ∧ t.phase = .tx h 1

/-- Reset is released and nothing that is to come asserts it. -/
def State.NoResetComes (s : State) : Prop := s.resetAsserted = false ∧ .assertReset ∉ s.agenda

/-- Weak fairness, for one command (R53): after finitely many steps the engine accepts the word `w` of host `h`. -/
def State.EventuallyAccepts (s : State) (h : HostId) (w : Word) : Prop :=
  ∃ (n : Nat) (t : State), core.run n s = .next t ∧ t.accepted = some (h, w)

/-- Completion (R138): after finitely many steps a response to the word `w` of host `h` is among those made since. -/
def State.EventuallyAnswers (s : State) (h : HostId) (w : Word) : Prop :=
  ∃ (n : Nat) (t : State) (resp : Response), core.run n s = .next t ∧ .answer h w resp ∈ t.responses.drop s.responses.length

/-- Every recorded response has 32 data bytes (R68). -/
def State.ResponsesOk (s : State) : Prop :=
  ∀ h w resp, ResponseEntry.answer h w resp ∈ s.responses → resp.data.length = 32

/-- What holds at every observation point. -/
structure State.Inv (s : State) : Prop where
  init : s.InitOk
  mem : s.MemOk
  ports : s.PortsOk
  phase : s.PhaseOk
  reflects : s.ReflectsLed
  responses : s.ResponsesOk

end Sys2Proof.Machine
end

