-- ==== Sys2Proof/Certificates/Slice0/Obligations.lean ====
section
/-! DEFINITION. The statements for the provers, from the numbered rules of spec/. Where a statement speaks of `Config`, it
speaks of every configuration the spec's parameters admit; where it speaks of the agenda, of every choice of the agents. -/

open Sys2Proof Sys2Proof.Machine

/-! ## Encoding -/

/-- The encoder and the decoder agree: no bit of a command is dropped (R59, R63 to R67). -/
def Obligations.DecodeAfterEncode : Prop :=
  ∀ i : Instr, WellFormed i = true → decodeWord (encode i) = i

/-- Decoding is total and loses nothing: every 64-bit word is the word of the term it decodes to. -/
def Obligations.EncodeAfterDecode : Prop :=
  ∀ w : Word, WellFormed (decodeWord w) = true ∧ encode (decodeWord w) = w

/-- R59: the word is its fields at their places. -/
def Obligations.FieldsMakeTheWord : Prop :=
  ∀ w : Word, w.toNat = (opField w).toNat + (rsvField w).toNat * 2 ^ 4 + (indexField w).toNat * 2 ^ 8
    + (vrField w).toNat * 2 ^ 32 + (vgField w).toNat * 2 ^ 40 + (vbField w).toNat * 2 ^ 48 + (vwField w).toNat * 2 ^ 56

/-- Words written out in spec/ decode to what spec/ says of them (30_encoding.md section 6, 95_test_vectors.md sections 7 and
9). -/
def Obligations.WrittenWordsDecode : Prop :=
  decodeWord 0x0000000000000000 = .nop 0
  ∧ decodeWord 0xFFFFFFFFFFFFFF00 = .nop 0xFFFFFFFFFFFFFF
  ∧ decodeWord 0x000000A500000001 = .encode 0xA5 0 0
  ∧ decodeWord 0x3322115AABCDEF01 = .encode 0x5A 0xABCDEF 0x332211
  ∧ decodeWord 0x0003010200000002 = .format { r := 2, g := 1, b := 3, w := 0 } 0
  ∧ decodeWord 0x000000FF00000103 = .setBrightness 1 { r := 255, g := 0, b := 0, w := 0 }
  ∧ decodeWord 0x0403020112345603 = .setBrightness 0x123456 { r := 1, g := 2, b := 3, w := 4 }
  ∧ decodeWord 0x0000000000000007 = .reserved4to7 7 0
  ∧ decodeWord 0x000000000000000F = .reserved8toF 0xF 0
  ∧ decodeWord 0x0000000000000313 = .illegalRsv4 3 1 3

/-- Over a byte-wide channel byte `j` of a value is its bits `8j+7 : 8j`, so the eight bytes of a word decode to what the
word decodes to, and no other number of bytes is a command (20_memory.md section 2, 30_encoding.md section 1). -/
def Obligations.ByteChannelLittleEndian : Prop :=
  (∀ (n k j : Nat) (v : BitVec n), j < k → (toBytesLE k v)[j]? = some (v.extractLsb' (8 * j) 8))
  ∧ (∀ w : Word, decodeBytes (toBytesLE 8 w) = .ok (decodeWord w))
  ∧ (∀ bs : List Byte, bs.length ≠ 8 → decodeBytes bs = .error (.notEightBytes bs.length))

/-- R67, with the meanings of the words it selects: the `ready` test, then the reserved bits, then the opcode. -/
def Obligations.DecodeSelectsInOrder : Prop :=
  ∀ (s : State) (w : Word),
    exec (decodeWord w) s =
      if s.ready = false then .next (s.raise w .notReady 0)
      else if w.extractLsb' 4 4 ≠ 0 then .next (s.raise w .illegalCommand 0)
      else if w.extractLsb' 0 4 = 0 then .next (s.respond w .ok 0 zeros)
      else if w.extractLsb' 0 4 = 1 then .next (s.respond w .ok 0 (padData (encodeSymbols s.cfg (w.extractLsb' 32 8))))
      else if w.extractLsb' 0 4 = 2 then
        .next (s.respond w .ok 0 (padData (formatPixel s.cfg
          { r := w.extractLsb' 32 8, g := w.extractLsb' 40 8, b := w.extractLsb' 48 8, w := w.extractLsb' 56 8 })))
      else if w.extractLsb' 0 4 = 3 then
        execSetBrightness (w.extractLsb' 8 24)
          { r := w.extractLsb' 32 8, g := w.extractLsb' 40 8, b := w.extractLsb' 48 8, w := w.extractLsb' 56 8 } s
      else .next (s.raise w .illegalCommand 0)

/-- R71: each pseudo-instruction is its expansion. -/
def Obligations.PseudoInstructionsExpand : Prop :=
  (∀ i r g b, assemble (.setrgb i r g b) = assemble (.setb i [(.r, r), (.g, g), (.b, b), (.w, 0)]))
  ∧ (∀ i r g b w, assemble (.setrgbw i r g b w) = assemble (.setb i [(.r, r), (.g, g), (.b, b), (.w, w)]))
  ∧ (∀ i, assemble (.clear i) = assemble (.setb i [(.r, 0), (.g, 0), (.b, 0), (.w, 0)]))
  ∧ assemble .sync = assemble .nop

/-- The assembled word of `setb` decodes to the command with its literals (30_encoding.md section 5), and a literal out of
its range is an assembly error. -/
def Obligations.AssembledUpdateDecodes : Prop :=
  (∀ i r g b w : Nat, i < 2 ^ 24 → r ≤ 255 → g ≤ 255 → b ≤ 255 → w ≤ 255 →
    ∃ word, assemble (.setb i [(.b, b), (.w, w), (.r, r), (.g, g)]) = some (.command word) ∧
      decodeWord word = .setBrightness (BitVec.ofNat 24 i)
        { r := BitVec.ofNat 8 r, g := BitVec.ofNat 8 g, b := BitVec.ofNat 8 b, w := BitVec.ofNat 8 w })
  ∧ (∀ i args, 2 ^ 24 ≤ i → assemble (.setb i args) = none)
  ∧ (∀ i args q v, (q, v) ∈ args → 255 < v → assemble (.setb i args) = none)

/-! ## The encoder and the formatter -/

/-- R72 and R73: symbol `j` of `encode(v)` is that of bit `7-j`, and there are eight, `BITS_PER_CHANNEL` of a valid profile. -/
def Obligations.EncodeBitByBit : Prop :=
  ∀ (c : Config) (v : Byte),
    (encodeSymbols c v).length = 8
    ∧ (c.profileValid = true → (encodeSymbols c v).length = c.bitsPerChannel.toNat)
    ∧ ∀ j, j < 8 → (encodeSymbols c v)[j]? = some (if v.getLsbD (7 - j) then c.oneSymbol else c.zeroSymbol)

/-- R75: the round-trip law, both ways; on any other sequence `decode` is undefined. -/
def Obligations.SymbolRoundTrip : Prop :=
  ∀ c : Config, c.zeroSymbol ≠ c.oneSymbol →
    (∀ v : Byte, decodeSymbols c (encodeSymbols c v) = some v)
    ∧ (∀ s : List Byte, (s.length ≠ 8 ∨ ∃ b ∈ s, b ≠ c.zeroSymbol ∧ b ≠ c.oneSymbol) → decodeSymbols c s = none)
    ∧ ∀ s : List Byte, s.length = 8 → (∀ b ∈ s, b = c.zeroSymbol ∨ b = c.oneSymbol) →
        ∃ v, decodeSymbols c s = some v ∧ encodeSymbols c v = s
          ∧ ∀ j, j < 8 → (v.getLsbD (7 - j) = true ↔ s[j]? = some c.oneSymbol)

/-- R79 and R80: the length of a pixel's block, and its lanes. -/
def Obligations.FormatLanes : Prop :=
  ∀ (c : Config) (vals : ChannelValues), c.profileValid = true →
    (formatPixel c vals).length = c.pixelSymbolSize
    ∧ (c.channels = 3 → c.pixelSymbolSize = 24) ∧ (c.channels = 4 → c.pixelSymbolSize = 32)
    ∧ ∀ k, k < c.channels → ∃ q, c.order.toList[k]? = some q ∧
        ((formatPixel c vals).drop (8 * k)).take 8 = encodeSymbols c (valOf vals q)

/-! ## What each command answers -/

/-- R106: NOP completes with `OK` and no data, or `NOT_READY`; only the response bookkeeping changes. -/
def Obligations.NopAnswers : Prop :=
  ∀ (ignored : BitVec 56) (s : State),
    exec (.nop ignored) s = .next
      { s with
        responses := s.responses ++
          [.answer s.serving (ignored ++ (0x00 : Byte))
            { code := if s.ready then .ok else .notReady, detail := 0, data := List.replicate 32 0 }]
        outstanding := Sparse.erase s.outstanding s.serving }

/-- R77: ENCODE answers the symbol sequence of its operand and 24 bytes 00; only the response bookkeeping changes. -/
def Obligations.EncodeAnswers : Prop :=
  ∀ (value : Byte) (lo hi : BitVec 24) (s : State), s.ready = true →
    exec (.encode value lo hi) s = .next
      { s with
        responses := s.responses ++
          [.answer s.serving (hi ++ value ++ lo ++ (0x01 : Byte))
            { code := .ok, detail := 0, data := encodeSymbols s.cfg value ++ List.replicate 24 0 }]
        outstanding := Sparse.erase s.outstanding s.serving }

/-- R82: FORMAT answers the pixel's symbol block and bytes 00 up to 32; only the response bookkeeping changes. -/
def Obligations.FormatAnswers : Prop :=
  ∀ (vals : ChannelValues) (lo : BitVec 24) (s : State), s.InitOk → s.ready = true →
    exec (.format vals lo) s = .next
      { s with
        responses := s.responses ++
          [.answer s.serving (vals.w ++ vals.b ++ vals.g ++ vals.r ++ lo ++ (0x02 : Byte))
            { code := .ok, detail := 0
              data := formatPixel s.cfg vals ++ List.replicate (32 - s.cfg.pixelSymbolSize) 0 }]
        outstanding := Sparse.erase s.outstanding s.serving }

/-- R85 and R87, the part inside the acceptance step: an in-range SET_BRIGHTNESS writes the LED's values and its region,
opens a frame and starts transmitting; it answers nothing yet. -/
def Obligations.SetBrightnessStartsFrame : Prop :=
  ∀ (index : BitVec 24) (vals : ChannelValues) (s : State), s.InitOk → s.ready = true → index.toNat < s.cfg.numLeds.toNat →
    exec (.setBrightness index vals) s = .next
      { s with
        led := Memory.writeBytes 0 s.led (index.toNat * s.cfg.channels) (s.cfg.wireOrder.map (valOf vals))
        buf := Memory.writeBytes s.cfg.zeroSymbol s.buf (index.toNat * s.cfg.pixelSymbolSize) (formatPixel s.cfg vals)
        frames := s.frames ++ [.frame [] .inProgress]
        phase := .tx s.serving 0 }

/-- R86: after an in-range SET_BRIGHTNESS the LED's region holds the formatted values, its LED state their wire values, and
every byte outside the region, and every other LED's state, is as before; the region lies inside the buffer. -/
def Obligations.SetBrightnessWritesOneRegion : Prop :=
  ∀ (index : BitVec 24) (vals : ChannelValues) (s : State), s.InitOk → s.ready = true → index.toNat < s.cfg.numLeds.toNat →
    ∃ t, exec (.setBrightness index vals) s = .next t
      ∧ t.memRead (index.toNat * s.cfg.pixelSymbolSize) s.cfg.pixelSymbolSize = some (formatPixel s.cfg vals)
      ∧ t.ledVals index.toNat = s.cfg.wireOrder.map (valOf vals)
      ∧ (∀ a, a < index.toNat * s.cfg.pixelSymbolSize ∨ (index.toNat + 1) * s.cfg.pixelSymbolSize ≤ a →
          t.memByte a = s.memByte a)
      ∧ (∀ i, i ≠ index.toNat → t.ledVals i = s.ledVals i)
      ∧ (index.toNat + 1) * s.cfg.pixelSymbolSize ≤ s.cfg.frameBytes
      ∧ s.cfg.frameBytes ≤ s.cfg.bufferCapacity

/-- R88 and R112: an index past the strip is answered `OUT_OF_RANGE` in the acceptance step; nothing else changes. -/
def Obligations.SetBrightnessOutOfRange : Prop :=
  ∀ (index : BitVec 24) (vals : ChannelValues) (s : State), s.ready = true → s.cfg.numLeds.toNat ≤ index.toNat →
    exec (.setBrightness index vals) s = .next
      { s with
        responses := s.responses ++
          [.answer s.serving (encode (.setBrightness index vals))
            { code := .outOfRange, detail := 0, data := List.replicate 32 0 }]
        outstanding := Sparse.erase s.outstanding s.serving }

/-- The six rows of words that spell no command are answered `ILLEGAL_COMMAND` with no other effect (60_exceptions.md
section 1). -/
def Obligations.IllegalWordsAnswered : Prop :=
  ∀ (op rsv : BitVec 4) (rest : BitVec 56) (s : State) (i : Instr), s.ready = true →
    i ∈ [Instr.reserved4to7 op rest, .reserved8toF op rest, .illegalRsv4 op rsv rest, .illegalRsv5 op rsv rest,
      .illegalRsv6 op rsv rest, .illegalRsv7 op rsv rest] →
    exec i s = .next
      { s with
        responses := s.responses ++
          [.answer s.serving (encode i) { code := .illegalCommand, detail := 0, data := List.replicate 32 0 }]
        outstanding := Sparse.erase s.outstanding s.serving }

/-- The same by words: any word with a reserved bit set, whatever its opcode, and any with a reserved opcode. -/
def Obligations.IllegalWordsByBits : Prop :=
  ∀ (w : Word) (s : State), s.ready = true →
    (w.extractLsb' 4 4 ≠ 0 ∨ (w.extractLsb' 4 4 = 0 ∧ 4 ≤ (w.extractLsb' 0 4).toNat ∧ (w.extractLsb' 0 4).toNat ≤ 15)) →
    exec (decodeWord w) s = .next
      { s with
        responses := s.responses ++
          [.answer s.serving w { code := .illegalCommand, detail := 0, data := List.replicate 32 0 }]
        outstanding := Sparse.erase s.outstanding s.serving }

/-- R110: while `ready = 0` every command, whatever its word, is answered `NOT_READY` with no other effect. -/
def Obligations.NotReadyAnswersEverything : Prop :=
  ∀ (i : Instr) (s : State), s.ready = false →
    exec i s = .next
      { s with
        responses := s.responses ++
          [.answer s.serving (encode i) { code := .notReady, detail := 0, data := List.replicate 32 0 }]
        outstanding := Sparse.erase s.outstanding s.serving }

/-- R66: the fields a command does not use make no difference: the answer is one and the same for all of them, and values
of roles that are not in the profile's order change nothing. -/
def Obligations.IgnoredFieldsIgnored : Prop :=
  ∀ s : State,
    (∃ code, ∀ ignored, exec (.nop ignored) s = .next (s.finish s.serving (encode (.nop ignored)) code 0 zeros))
    ∧ (∀ value, ∃ code data, ∀ lo hi,
        exec (.encode value lo hi) s = .next (s.finish s.serving (encode (.encode value lo hi)) code 0 data))
    ∧ (∀ vals, ∃ code data, ∀ vals' lo, (∀ q ∈ s.cfg.wireOrder, valOf vals' q = valOf vals q) →
        exec (.format vals' lo) s = .next (s.finish s.serving (encode (.format vals' lo)) code 0 data))
    ∧ (∀ index vals vals', s.ready = true → index.toNat < s.cfg.numLeds.toNat →
        (∀ q ∈ s.cfg.wireOrder, valOf vals' q = valOf vals q) →
        exec (.setBrightness index vals') s = exec (.setBrightness index vals) s)
    ∧ (∀ index, s.ready = false ∨ s.cfg.numLeds.toNat ≤ index.toNat → ∃ code, ∀ vals,
        exec (.setBrightness index vals) s = .next (s.finish s.serving (encode (.setBrightness index vals)) code 0 zeros))

/-! ## Frames: what a command leaves unchanged -/

/-- The commands that only answer (NOP, ENCODE, FORMAT, the reserved and illegal words): all but the response bookkeeping of
the host being served is unchanged, every byte of the strip buffer and every LED value among it. -/
def Obligations.AnsweringCommandsFrame : Prop :=
  ∀ (i : Instr) (s t : State), (∀ index vals, i ≠ .setBrightness index vals) → exec i s = .next t →
    t.cfg = s.cfg ∧ t.ready = s.ready ∧ t.initErr = s.initErr
    ∧ (∀ a, t.memByte a = s.memByte a) ∧ (∀ j, t.ledVals j = s.ledVals j)
    ∧ t.phase = s.phase ∧ t.dout = s.dout ∧ t.frames = s.frames
    ∧ (∀ h, h ≠ s.serving → t.outstandingOf h = s.outstandingOf h) ∧ t.outstandingOf s.serving = none
    ∧ (∃ resp, t.responses = s.responses ++ [.answer s.serving (encode i) resp])
    ∧ t.waiting = s.waiting ∧ t.serving = s.serving ∧ t.resetAsserted = s.resetAsserted ∧ t.reads = s.reads
    ∧ t.agenda = s.agenda ∧ t.draws = s.draws ∧ t.delay = s.delay

/-- SET_BRIGHTNESS, in every state it leaves: only bytes of the region it stores to, the LED state of its index, the phase,
the frame history and the bookkeeping of the host being served may change. -/
def Obligations.SetBrightnessFrame : Prop :=
  ∀ (index : BitVec 24) (vals : ChannelValues) (s t : State), exec (.setBrightness index vals) s = .next t →
    t.cfg = s.cfg ∧ t.ready = s.ready ∧ t.initErr = s.initErr ∧ t.dout = s.dout
    ∧ (∀ a, a < regionStart s.cfg (ledIndex index) ∨ regionStart s.cfg (ledIndex index) + s.cfg.pixelSymbolSize ≤ a →
        t.memByte a = s.memByte a)
    ∧ (∀ j, j ≠ ledIndex index → t.ledVals j = s.ledVals j)
    ∧ (∀ h, h ≠ s.serving → t.outstandingOf h = s.outstandingOf h)
    ∧ t.waiting = s.waiting ∧ t.serving = s.serving ∧ t.resetAsserted = s.resetAsserted ∧ t.reads = s.reads
    ∧ t.agenda = s.agenda ∧ t.draws = s.draws ∧ t.delay = s.delay
    ∧ (t.responses = s.responses ∧ t.outstanding = s.outstanding
        ∨ t.frames = s.frames ∧ t.phase = s.phase ∧ t.buf = s.buf ∧ t.led = s.led)

/-! ## Acceptance and the ports -/

/-- R83, the engine's side: an enabled acceptance of a well-formed command's word is `exec` of that command, after the step
has taken the action off the agenda, recorded the word as outstanding and taken it off the host's port. -/
def Obligations.StepRunsDecodedCommand : Prop :=
  ∀ (s : State) (h : HostId) (w : Word), s.Turn (.accept h) → s.phase = .idle → s.outstandingOf h = none →
    s.waitingOf h = some w →
    (step s = exec (decodeWord w)
      { s.popAction with
        outstanding := Sparse.put s.outstanding h w
        waiting := Sparse.erase s.waiting h
        serving := h })
    ∧ ∀ i, WellFormed i = true → w = encode i →
        step s = exec i
          { s.popAction with
            outstanding := Sparse.put s.outstanding h w
            waiting := Sparse.erase s.waiting h
            serving := h }

/-- R49 and R83: while the engine is busy an acceptance does nothing: the host is stalled and its command goes on waiting. -/
def Obligations.BusyEngineStalls : Prop :=
  ∀ (s : State) (h : HostId), s.Turn (.accept h) → s.phase ≠ .idle → step s = .next s.popAction

/-- The blocking port of 20_memory.md section 5. That an offered command stands in `waiting`, and that an offer by a host whose
last command waits or is outstanding is no event, is the model's own reading (log 7, DEDUCED). -/
def Obligations.OfferedCommandWaits : Prop :=
  ∀ (s : State) (h : HostId) (w : Word), s.Turn (.offer h w) →
    (s.waitingOf h = none → s.outstandingOf h = none →
      ∃ t, step s = .next t ∧ t.waitingOf h = some w ∧ (∀ h', h' ≠ h → t.waitingOf h' = s.waitingOf h')
        ∧ t = { s.popAction with waiting := t.waiting })
    ∧ (s.waitingOf h ≠ none ∨ s.outstandingOf h ≠ none → step s = .next s.popAction)

/-- Where the agenda says nothing, the block's own next action is one that is enabled, whatever the free values are: a bus
clock period, or, in `Idle` only, the acceptance of a command that waits (log 6; R53 and R96 leave the choice open). -/
def Obligations.OwnActionIsEnabled : Prop :=
  ∀ s : State, s.PortsOk → s.agenda = [] →
    (∃ hold, s.nextAction = .period hold)
    ∨ ∃ h w, s.nextAction = .accept h ∧ s.phase = .idle ∧ s.waitingOf h = some w ∧ s.outstandingOf h = none

/-- R49: from the acceptance of a SET_BRIGHTNESS until its response no command is accepted and the strip state does not
change, unless reset comes. -/
def Obligations.BufferHeldWhileBusy : Prop :=
  ∀ s t : State, s.resetAsserted = false → s.phase ≠ .idle → s.nextAction ≠ .assertReset → step s = .next t →
    s.accepted = none ∧ t.buf = s.buf ∧ t.led = s.led ∧ t.cfg = s.cfg ∧ t.ready = s.ready
    ∧ (∀ h, t.outstandingOf h = s.outstandingOf h ∨ t.phase = .idle)

/-- R51: exactly one frame starts for each accepted in-range SET_BRIGHTNESS, and none otherwise. -/
def Obligations.OneFramePerUpdate : Prop :=
  ∀ s t : State, step s = .next t →
    t.framesStarted = s.framesStarted
      + match s.accepted with
        | some (_, w) => if s.ready = true ∧ startsFrame s.cfg w = true then 1 else 0
        | none => 0

/-- Every response ends the command of its host, for the word that host had outstanding or accepted in this very step
(30_encoding.md section 4, 20_memory.md section 5). -/
def Obligations.ResponseEndsCommand : Prop :=
  ∀ s t : State, s.Inv → step s = .next t →
    t.responses = s.responses ∨ t.responses = s.responses ++ [.reset]
    ∨ ∃ h w resp, t.responses = s.responses ++ [.answer h w resp] ∧ t.outstandingOf h = none ∧ t.phase = .idle
        ∧ (s.outstandingOf h = some w ∨ s.accepted = some (h, w))

/-! ## The serializer -/

/-- R95: in `Tx(h, k)` the period emits bit `7 - (k mod 8)` of byte `k div 8` of the buffer; then the next bit, or after the
last the frame is complete and its gap starts. -/
def Obligations.FrameBitEmitted : Prop :=
  ∀ (s : State) (h : HostId) (k : Nat) (hold : Bool), s.Turn (.period hold) → s.phase = .tx h k → s.ready = true →
    k < s.cfg.frameBits → (k = 0 → hold = false) →
    ∃ byte, s.memByte (k / 8) = some byte ∧
      step s = .next
        { s.popAction with
          dout := byte.getLsbD (7 - k % 8)
          frames :=
            if k + 1 < s.cfg.frameBits then updateLast (FrameEntry.push (byte.getLsbD (7 - k % 8))) s.frames
            else updateLast (FrameEntry.mark .complete) (updateLast (FrameEntry.push (byte.getLsbD (7 - k % 8))) s.frames)
          phase :=
            if k + 1 < s.cfg.frameBits then .tx h (k + 1)
            else .gap s.cfg.latch (some { host := h, result := .ok }) }

/-- R96: before bit 0 a held period is low and the phase stays; from bit 0 on no period is skipped. -/
def Obligations.StartLatencyIsLow : Prop :=
  (∀ (s : State) (h : HostId), s.Turn (.period true) → s.phase = .tx h 0 →
    step s = .next { s.popAction with dout := false })
  ∧ (∀ (s : State) (h : HostId) (k : Nat) (hold : Bool), s.phase = .tx h (k + 1) → s.period hold = s.period false)

/-- R99 and R100: a gap period is low; the gap counts down, and at its end its owner is answered and the engine is `Idle`. -/
def Obligations.GapPeriod : Prop :=
  (∀ (s : State) (hold : Bool) (n : Nat) (owner : Option GapOwner), s.Turn (.period hold) → s.phase = .gap n owner → 1 < n →
    step s = .next { s.popAction with dout := false, phase := .gap (n - 1) owner })
  ∧ (∀ (s : State) (hold : Bool), s.Turn (.period hold) → s.phase = .gap 1 none →
      step s = .next { s.popAction with dout := false, phase := .idle })
  ∧ (∀ (s : State) (hold : Bool) (h : HostId) (w : Word), s.Turn (.period hold) →
      s.phase = .gap 1 (some { host := h, result := .ok }) → s.outstandingOf h = some w →
      step s = .next
        { s.popAction with
          dout := false
          phase := .idle
          responses := s.responses ++ [.answer h w { code := .ok, detail := 0, data := List.replicate 32 0 }]
          outstanding := Sparse.erase s.outstanding h })
  ∧ (∀ (s : State) (hold : Bool) (h : HostId) (w : Word) (c : Byte), s.Turn (.period hold) →
      s.phase = .gap 1 (some { host := h, result := .transportError c }) → s.outstandingOf h = some w →
      step s = .next
        { s.popAction with
          dout := false
          phase := .idle
          responses := s.responses ++ [.answer h w { code := .transportError, detail := c, data := List.replicate 32 0 }]
          outstanding := Sparse.erase s.outstanding h })

/-- R98: the line is low after every period in which no frame bit was emitted, and between periods it holds its level unless
reset takes it low. -/
def Obligations.LineLowOutsideFrames : Prop :=
  ∀ s t : State, step s = .next t →
    (∀ hold, s.Turn (.period hold) → (∀ h k, s.phase = .tx h k → k = 0 ∧ hold = true) → t.dout = false)
    ∧ ((∀ hold, s.nextAction ≠ .period hold) → t.dout = s.dout ∨ t.dout = false)

/-- R102: what a transport fault does in each phase, and nothing in the others; the code is passed on unchanged, and the
line is low from the next period of the gap. -/
def Obligations.TransportFaultEffect : Prop :=
  (∀ (s : State) (c : Byte) (h : HostId) (k : Nat), s.Turn (.fault c) → s.phase = .tx h k →
    step s = .next
      { s.popAction with
        frames := updateLast (FrameEntry.mark .aborted) s.frames
        phase := .gap s.cfg.latch (some { host := h, result := .transportError c }) })
  ∧ (∀ (s : State) (c : Byte) (n : Nat) (h : HostId), s.Turn (.fault c) →
      s.phase = .gap n (some { host := h, result := .ok }) →
      step s = .next { s.popAction with phase := .gap n (some { host := h, result := .transportError c }) })
  ∧ (∀ (s : State) (c : Byte), s.Turn (.fault c) → (∀ h k, s.phase ≠ .tx h k) →
      (∀ n h, s.phase ≠ .gap n (some { host := h, result := .ok })) → step s = .next s.popAction)
  ∧ (∀ c : Byte, (FrameResult.transportError c).code = .transportError ∧ (FrameResult.transportError c).detail = c)
  ∧ (∀ (s t : State) (hold : Bool) (n : Nat) (owner : Option GapOwner), s.Turn (.period hold) → s.phase = .gap n owner →
      step s = .next t → t.dout = false)

/-- R94, R95 and R97 over a whole frame: after any start latency, `L` periods on end put the whole buffer on the line, byte
by byte, each MSB first, into one complete entry of `frames`; then the gap runs and the buffer is as it was. -/
def Obligations.WholeFrameTransmitted : Prop :=
  ∀ (s : State) (h : HostId) (lead : Nat) (rest : List Action) (past : List FrameEntry), s.resetAsserted = false →
    s.ready = true → 0 < s.cfg.frameBits → s.phase = .tx h 0 → s.frames = past ++ [.frame [] .inProgress] →
    s.agenda = List.replicate lead (Action.period true) ++ (List.replicate s.cfg.frameBits (Action.period false) ++ rest) →
    ∃ t, core.run (lead + s.cfg.frameBits) s = .next t
      ∧ t = { s with
          agenda := rest
          dout := t.dout
          frames := past ++ [.frame s.frameImage .complete]
          phase := .gap s.cfg.latch (some { host := h, result := .ok }) }
      ∧ s.frameImage.length = s.cfg.frameBits ∧ s.frameImage.getLast? = some t.dout

/-- 43_serializer.md section 3 over a gap of any `n`: `n` low periods in which nothing else happens, and with the last of them
the owner's one response, or none after reset, and `Idle`. (That a gap starts at LATCH_IDLE_CLKS: FrameBitEmitted,
TransportFaultEffect, ResetReleaseSetsState.) -/
def Obligations.WholeGapRuns : Prop :=
  ∀ (s : State) (n : Nat) (rest : List Action), s.resetAsserted = false → 1 ≤ n →
    s.agenda = List.replicate n (Action.period false) ++ rest →
    (∀ owner m, s.phase = .gap n owner → 1 ≤ m → m < n →
      core.run m s = .next
        { s with
          agenda := List.replicate (n - m) (Action.period false) ++ rest
          dout := false
          phase := .gap (n - m) owner })
    ∧ (s.phase = .gap n none → core.run n s = .next { s with agenda := rest, dout := false, phase := .idle })
    ∧ (∀ o w, s.phase = .gap n (some o) → s.outstandingOf o.host = some w →
        core.run n s = .next
          { s with
            agenda := rest
            dout := false
            phase := .idle
            responses := s.responses ++
              [.answer o.host w { code := o.result.code, detail := o.result.detail, data := List.replicate 32 0 }]
            outstanding := Sparse.erase s.outstanding o.host })

/-- R87 and R105, a whole SET_BRIGHTNESS with no fault: acceptance, start latency, frame and gap take
`lead + L + LATCH_IDLE_CLKS` periods and end in `OK`, the whole updated buffer having been sent as one complete frame. -/
def Obligations.UpdateRunsToOk : Prop :=
  ∀ (s : State) (h : HostId) (index : BitVec 24) (vals : ChannelValues) (lead : Nat) (rest : List Action),
    s.Inv → s.resetAsserted = false → s.ready = true → s.phase = .idle →
    s.waitingOf h = some (encode (.setBrightness index vals)) → index.toNat < s.cfg.numLeds.toNat →
    s.agenda = Action.accept h :: (List.replicate lead (Action.period true)
      ++ (List.replicate (s.cfg.frameBits + s.cfg.latch) (Action.period false) ++ rest)) →
    ∃ t, core.run (1 + (lead + s.cfg.frameBits + s.cfg.latch)) s = .next t
      ∧ t.phase = .idle ∧ t.dout = false ∧ t.agenda = rest ∧ t.outstanding = []
      ∧ t.frames = s.frames ++ [.frame t.frameImage .complete]
      ∧ t.responses = s.responses ++
          [.answer h (encode (.setBrightness index vals)) { code := .ok, detail := 0, data := List.replicate 32 0 }]
      ∧ t.buf = Memory.writeBytes s.cfg.zeroSymbol s.buf (index.toNat * s.cfg.pixelSymbolSize) (formatPixel s.cfg vals)

/-- R103, with the fault, the gap and the kept region of 43_serializer.md sections 3 and 4 and 42_set_brightness.md section 3,
over one whole aborted update: a fault once `k` bits are out ends the frame there, its bits a prefix of the frame's; after the
gap the answer is `TRANSPORT_ERROR` with the fault's code, and the region write stays. -/
def Obligations.AbortedUpdateRunsToError : Prop :=
  ∀ (s : State) (h : HostId) (index : BitVec 24) (vals : ChannelValues) (lead k : Nat) (c : Byte) (rest : List Action),
    s.Inv → s.resetAsserted = false → s.ready = true → s.phase = .idle →
    s.waitingOf h = some (encode (.setBrightness index vals)) → index.toNat < s.cfg.numLeds.toNat → k < s.cfg.frameBits →
    s.agenda = Action.accept h :: (List.replicate lead (Action.period true) ++ (List.replicate k (Action.period false)
      ++ (Action.fault c :: (List.replicate s.cfg.latch (Action.period false) ++ rest)))) →
    ∃ t, core.run (1 + (lead + k + (1 + s.cfg.latch))) s = .next t
      ∧ t.phase = .idle ∧ t.dout = false ∧ t.agenda = rest ∧ t.outstanding = []
      ∧ t.frames = s.frames ++ [.frame (t.frameImage.take k) .aborted]
      ∧ t.responses = s.responses ++
          [.answer h (encode (.setBrightness index vals)) { code := .transportError, detail := c, data := List.replicate 32 0 }]
      ∧ t.buf = Memory.writeBytes s.cfg.zeroSymbol s.buf (index.toNat * s.cfg.pixelSymbolSize) (formatPixel s.cfg vals)
      ∧ t.led = Memory.writeBytes 0 s.led (index.toNat * s.cfg.channels) (s.cfg.wireOrder.map (valOf vals))

/-- 42_set_brightness.md section 3, the form in which the second command is offered once the first is over: two updates with
the same word, accepted one right after the other (by one host or by two) with no fault, send two frames with identical bits,
each the whole buffer; the second region write stores the bytes already there. (`WaitingRepeatSameFrame` states the form in
which the second command already waits.) -/
def Obligations.RepeatedUpdateSameFrame : Prop :=
  ∀ (s : State) (h h' : HostId) (index : BitVec 24) (vals : ChannelValues) (lead lead' : Nat) (rest : List Action),
    s.Inv → s.resetAsserted = false → s.ready = true → s.phase = .idle → s.waitingOf h = none → s.waitingOf h' = none →
    index.toNat < s.cfg.numLeds.toNat →
    s.agenda = Action.offer h (encode (.setBrightness index vals)) :: Action.accept h :: (List.replicate lead (Action.period true)
      ++ (List.replicate (s.cfg.frameBits + s.cfg.latch) (Action.period false)
      ++ Action.offer h' (encode (.setBrightness index vals)) :: Action.accept h' :: (List.replicate lead' (Action.period true)
      ++ (List.replicate (s.cfg.frameBits + s.cfg.latch) (Action.period false) ++ rest)))) →
    ∃ t u, core.run (1 + (1 + (lead + s.cfg.frameBits + s.cfg.latch))) s = .next t
      ∧ core.run (1 + (1 + (lead' + s.cfg.frameBits + s.cfg.latch))) t = .next u
      ∧ u.frames = s.frames ++ [.frame t.frameImage .complete, .frame t.frameImage .complete]
      ∧ u.buf = t.buf ∧ u.led = t.led

/-! ## Reset -/

/-- R128: the configuration error first, then the allocation failure; reset release records the outcome. -/
def Obligations.InitCheckInOrder : Prop :=
  ∀ c : Config,
    (∀ s : State, s.resetAsserted = true → s.nextAction = .releaseReset c →
      ∃ t, step s = .next t ∧ t.initErr = c.initCheck ∧ (t.ready = true ↔ c.initCheck = .noError))
    ∧ c.initCheck =
      if c.bitsPerChannel ≠ 8 ∨ ¬(c.channelsPerLed = 3 ∨ c.channelsPerLed = 4)
          ∨ ¬(c.order.toList.take c.channelsPerLed.toNat).Nodup ∨ c.zeroSymbol = c.oneSymbol
          ∨ c.busFreqHz.toNat ≠ 8 * c.nativeBitRateHz.toNat ∨ c.busFreqHz.toNat ∉ c.busClocks then .configurationError
      else if c.numLeds.toNat > 2 ^ 24 ∨ c.numLeds.toNat * (c.bitsPerChannel.toNat * c.channelsPerLed.toNat) > c.bufferCapacity
      then .allocationFailure
      else .noError

/-- 70_reset_and_hazards.md section 1: release samples the configuration, sets every piece of state to its reset value and
keeps `frames` and `responses`. That no command waits after it is the model's reading of the port (log 7); that `reads`, the
agenda and the count of draws are kept is the model's choice about its own fields (logs 14, 5, 6). -/
def Obligations.ResetReleaseSetsState : Prop :=
  ∀ (s : State) (c : Config), s.resetAsserted = true → s.nextAction = .releaseReset c →
    ∃ t, step s = .next t ∧ t.resetAsserted = false ∧ t.cfg = c
      ∧ t.initErr = c.initCheck ∧ (t.ready = true ↔ c.initCheck = .noError)
      ∧ (∀ h, t.outstandingOf h = none) ∧ (∀ h, t.waitingOf h = none) ∧ t.dout = false
      ∧ (∀ a, t.memByte a = if t.ready = true ∧ a < c.frameBytes then some c.zeroSymbol else none)
      ∧ (∀ i k, t.ledValue i k = 0)
      ∧ t.phase = (if t.ready then .gap c.latch none else .idle)
      ∧ t.frames = s.frames ∧ t.responses = s.responses ∧ t.reads = s.reads
      ∧ t.agenda = s.popAction.agenda ∧ t.draws = s.popAction.draws

/-- 70_reset_and_hazards.md section 1: an asserted reset takes the line low, aborts a frame on it, drops every outstanding
command without a response and undoes nothing of it. That it also drops every WAITING command is the model's reading of the
port (log 7, unsafe); that each history gains its marker at the assertion, not at the release, is the model's reading of the
two events (log 11). -/
def Obligations.ResetAssertDropsCommands : Prop :=
  ∀ s : State, s.Turn .assertReset →
    ∃ t, step s = .next t ∧ t.resetAsserted = true ∧ t.dout = false
      ∧ (∀ h, t.outstandingOf h = none) ∧ (∀ h, t.waitingOf h = none)
      ∧ t.responses = s.responses ++ [.reset] ∧ t.buf = s.buf ∧ t.led = s.led
      ∧ (∀ h k past bits, s.phase = .tx h k → s.frames = past ++ [.frame bits .inProgress] →
          t.frames = past ++ [.frame bits .aborted, .reset])
      ∧ ((∀ h k, s.phase ≠ .tx h k) → t.frames = s.frames ++ [.reset])

/-- R126: while reset is asserted the block takes no step: every event but the release is discarded. -/
def Obligations.NoStepWhileReset : Prop :=
  ∀ s : State, s.resetAsserted = true → (∀ c, s.nextAction ≠ .releaseReset c) → step s = .next s.popAction

/-- What reset leaves for every configuration (10_state.md section 7), and what `State.reset` is: that state for the
configuration the MODEL chooses (log 2; 1 clock of gap, 3 LEDs of the calibration profile). -/
def Obligations.ResetValues : Prop :=
  (∀ c : Config,
    (State.powerOn c).initErr = c.initCheck ∧ ((State.powerOn c).ready = true ↔ c.initCheck = .noError)
    ∧ (∀ a, (State.powerOn c).memByte a = if c.initCheck = .noError ∧ a < c.frameBytes then some c.zeroSymbol else none)
    ∧ (∀ i k, (State.powerOn c).ledValue i k = 0)
    ∧ (State.powerOn c).phase = (if c.initCheck = .noError then .gap c.latch none else .idle)
    ∧ (State.powerOn c).dout = false ∧ (∀ h, (State.powerOn c).outstandingOf h = none)
    ∧ (State.powerOn c).frames = [] ∧ (State.powerOn c).responses = []
    ∧ (State.powerOn c).reg 0 = if c.initCheck = .noError then (3 : Reg32) else (c.initCheck.code.setWidth 32) <<< 2)
  ∧ State.reset = State.powerOn Config.atReset ∧ State.reset.ready = true ∧ State.reset.phase = .gap 1 none

/-! ## The register port -/

/-- R29: STATUS, field by field, its reset value, and that reading it has no side effect. -/
def Obligations.StatusRegister : Prop :=
  (∀ s : State, ∃ v, s.readReg 0x000 32 = .value v
    ∧ (v.getLsbD 0 = true ↔ s.phase ≠ .idle) ∧ (v.getLsbD 1 = true ↔ s.ready = true)
    ∧ v.extractLsb' 2 2 = s.initErr.code ∧ v.extractLsb' 4 28 = 0
    ∧ ∀ h, s.Turn (.read h 0x000 32) → step s = .next { s.popAction with
        reads := s.reads ++ [{ h := h, off := 0x000, width := 32, result := .value v }] })
  ∧ ∀ c : Config, (State.powerOn c).readReg 0x000 32 = .value
      (match c.initCheck with
        | .noError => 0x00000003
        | .configurationError => 0x00000004
        | .allocationFailure => 0x00000008)

/-- R30: PROFILE, field by field, constant between resets, and its value for the calibration profile. -/
def Obligations.ProfileRegister : Prop :=
  (∀ s : State, ∃ v, s.readReg 0x004 32 = .value v
    ∧ v.extractLsb' 0 8 = s.cfg.zeroSymbol ∧ v.extractLsb' 8 8 = s.cfg.oneSymbol
    ∧ v.extractLsb' 16 4 = s.cfg.bitsPerChannel ∧ v.extractLsb' 20 4 = s.cfg.channelsPerLed
    ∧ ∀ k q, s.cfg.order.toList[k]? = some q →
        v.extractLsb' (24 + 2 * k) 2 = if k < s.cfg.channelsPerLed.toNat then q.code else 0)
  ∧ (∀ s t : State, (∀ c, s.nextAction ≠ .releaseReset c) → step s = .next t → t.readReg 0x004 32 = s.readReg 0x004 32)
  ∧ ∀ (s : State) (leds : Reg32) (capacity : Nat) (gap : LatchClks), s.cfg = Config.calibration leds capacity gap →
      s.readReg 0x004 32 = .value 0x2138FCC0

/-- R31 to R35: the other registers, constant between resets, and the reserved offsets, which read as 0 with no side
effect. -/
def Obligations.ConfigurationRegisters : Prop :=
  (∀ s : State,
    s.readReg 0x008 32 = .value s.cfg.numLeds
    ∧ s.readReg 0x00C 32 = .value s.cfg.busFreqHz
    ∧ s.readReg 0x010 32 = .value s.cfg.nativeBitRateHz
    ∧ s.readReg 0x014 32 = .value (BitVec.ofNat 32 (s.cfg.bitsPerChannel.toNat * s.cfg.channelsPerLed.toNat))
    ∧ s.cfg.bitsPerChannel.toNat * s.cfg.channelsPerLed.toNat ≤ 225
    ∧ ∀ off, 0x018 ≤ off → off ≤ 0xFFC → off % 4 = 0 → s.readReg off 32 = .value 0
        ∧ ∀ h, s.Turn (.read h off 32) → step s = .next { s.popAction with
            reads := s.reads ++ [{ h := h, off := off, width := 32, result := .value 0 }] })
  ∧ ∀ (s t : State), (∀ c, s.nextAction ≠ .releaseReset c) → step s = .next t →
      t.readReg 0x008 32 = s.readReg 0x008 32 ∧ t.readReg 0x00C 32 = s.readReg 0x00C 32
      ∧ t.readReg 0x010 32 = s.readReg 0x010 32 ∧ t.readReg 0x014 32 = s.readReg 0x014 32

/-- R114: exactly the misaligned, the wrongly sized and the out-of-space reads are refused; the refusal is no command
response and changes nothing. (It stands in `reads`, the model's own observation: log 14.) -/
def Obligations.BusErrorReads : Prop :=
  ∀ (s : State) (off width : Nat),
    (s.readReg off width = .busError ↔ width ≠ 32 ∨ off % 4 ≠ 0 ∨ off > 0xFFC)
    ∧ ∀ h, s.Turn (.read h off width) → (width ≠ 32 ∨ off % 4 ≠ 0 ∨ off > 0xFFC) →
        step s = .next { s.popAction with
          reads := s.reads ++ [{ h := h, off := off, width := width, result := .busError }] }

/-- R45: a register read answers and changes nothing of the block, in every phase and while `ready = 0`. (The answer is
recorded in `reads`, the model's own observation: log 14.) -/
def Obligations.ReadsHaveNoSideEffect : Prop :=
  ∀ (s : State) (h : HostId) (off width : Nat), s.Turn (.read h off width) →
    step s = .next { s.popAction with
      reads := s.reads ++ [{ h := h, off := off, width := width, result := s.readReg off width }] }

/-! ## Invariants -/

/-- The state after a reset release is a good one, for every configuration, `State.reset` among them. -/
def Obligations.PowerOnIsGood : Prop := (∀ c : Config, (State.powerOn c).Inv) ∧ State.reset.Inv

/-- Every step of every agent keeps the invariant. -/
def Obligations.StepKeepsInv : Prop := ∀ s t : State, s.Inv → step s = .next t → t.Inv

/-- From a good state the machine never stops: every step of every agent has a next state. -/
def Obligations.StepNeverStops : Prop := ∀ s : State, s.Inv → ∃ t, step s = .next t

/-- Both memories stay in canonical form, from any state at all. -/
def Obligations.StepKeepsMemoryCanonical : Prop :=
  ∀ s t : State, Memory.wf s.cfg.zeroSymbol s.buf → Memory.wf 0 s.led → step s = .next t →
    Memory.wf t.cfg.zeroSymbol t.buf ∧ Memory.wf 0 t.led

/-- R23: at every observation point each LED's region is the encoding of its last-set values: so after reset, and kept by
every step; and the LED values are recoverable from the buffer. -/
def Obligations.BufferReflectsLeds : Prop :=
  (∀ c : Config, (State.powerOn c).ReflectsLed)
  ∧ (∀ s t : State, s.InitOk → s.ReflectsLed → step s = .next t → t.ReflectsLed)
  ∧ ∀ (s : State) (i k : Nat), s.InitOk → s.ReflectsLed → s.ready = true → i < s.cfg.numLeds.toNat →
      k < s.cfg.channelsPerLed.toNat →
      ∃ lane, s.memRead (i * s.cfg.pixelSymbolSize + 8 * k) 8 = some lane ∧ decodeSymbols s.cfg lane = some (s.ledValue i k)

/-! ## Start latency, fairness, completion -/

/-- The start latency of 43_serializer.md section 2. Where the agenda says nothing it is some finite number of low periods,
whatever the free value drawn is, and after bit 0 the next step of the block itself is a period: the empty agenda and the free
value `Config.delay` are the model's choice (log 6). With an agenda, any number of low periods can be had; and from bit 0 on
every period emits the next bit, none is skipped. -/
def Obligations.StartLatencyIsFinite : Prop :=
  (∀ (s : State) (h : HostId), s.resetAsserted = false → s.ready = true → 0 < s.cfg.frameBits → s.phase = .tx h 0 →
    s.agenda = [] → ∃ d, s.StartsAfter h d)
  ∧ (∀ (s : State) (h : HostId) (d : Nat) (rest : List Action), s.resetAsserted = false → s.ready = true →
      0 < s.cfg.frameBits → s.phase = .tx h 0 →
      s.agenda = List.replicate d (Action.period true) ++ Action.period false :: rest → s.StartsAfter h d)
  ∧ (∀ (s : State) (h : HostId) (k : Nat) (hold : Bool), s.Turn (.period hold) → s.ready = true → s.phase = .tx h (k + 1) →
      k + 1 < s.cfg.frameBits →
      ∃ t, step s = .next t ∧ s.frameBit (k + 1) = some t.dout
        ∧ t.phase = if k + 2 < s.cfg.frameBits then .tx h (k + 2) else .gap s.cfg.latch (some { host := h, result := .ok }))
  ∧ (∀ (s : State) (h : HostId) (k : Nat), s.agenda = [] → s.phase = .tx h (k + 1) → s.nextAction = .period false)

/-- R53: in `Idle` any host's waiting command may be the next one accepted; a command that waits goes on waiting until it is
accepted; and, where no reset comes, it is accepted after finitely many steps, whatever the agenda and the free values are. (How
the weak fairness the rule assumes stands in the model: logs 6 and 19.) -/
def Obligations.WaitingCommandIsAccepted : Prop :=
  ∀ (s : State) (h : HostId) (w : Word), s.Inv → s.NoResetComes → s.waitingOf h = some w →
    (s.phase = .idle → ∀ rest, ({ s with agenda := Action.accept h :: rest } : State).accepted = some (h, w))
    ∧ (∀ t, step s = .next t → s.accepted ≠ some (h, w) → t.waitingOf h = some w)
    ∧ s.EventuallyAccepts h w

/-- The completion of 70_reset_and_hazards.md section 4: unless a reset comes first, a command that waits or is outstanding is
answered after finitely many steps, whatever the agenda and the free values are. -/
def Obligations.EveryCommandCompletes : Prop :=
  ∀ (s : State) (h : HostId) (w : Word), s.Inv → s.NoResetComes →
    (s.waitingOf h = some w ∨ s.outstandingOf h = some w) → s.EventuallyAnswers h w

/-- 42_set_brightness.md section 3, the form in which the second command already waits, at another host's port, while the first
update runs: the two frames have identical bits, each the whole buffer. -/
def Obligations.WaitingRepeatSameFrame : Prop :=
  ∀ (s : State) (h h' : HostId) (index : BitVec 24) (vals : ChannelValues) (lead lead' : Nat) (rest : List Action),
    s.Inv → s.resetAsserted = false → s.ready = true → s.phase = .idle → h ≠ h' →
    s.waitingOf h = some (encode (.setBrightness index vals)) → s.waitingOf h' = some (encode (.setBrightness index vals)) →
    index.toNat < s.cfg.numLeds.toNat →
    s.agenda = Action.accept h :: (List.replicate lead (Action.period true)
      ++ (List.replicate (s.cfg.frameBits + s.cfg.latch) (Action.period false)
      ++ Action.accept h' :: (List.replicate lead' (Action.period true)
      ++ (List.replicate (s.cfg.frameBits + s.cfg.latch) (Action.period false) ++ rest)))) →
    ∃ t u, core.run (1 + (lead + s.cfg.frameBits + s.cfg.latch)) s = .next t
      ∧ core.run (1 + (lead' + s.cfg.frameBits + s.cfg.latch)) t = .next u
      ∧ u.frames = s.frames ++ [.frame t.frameImage .complete, .frame t.frameImage .complete]
      ∧ u.buf = t.buf ∧ u.led = t.led
end

