-- ==== Sys2Proof/Laws/Encode.lean ====
section
/-! SUPPORT. The words of the encoder and the fields of the decoder as natural numbers, where both are linear (R59). -/

namespace Sys2Proof

/-- An appended vector as a number: the high part shifted above the low part. -/
theorem toNat_append_eq_add {n m : Nat} (x : BitVec n) (y : BitVec m) : (x ++ y).toNat = x.toNat * 2 ^ m + y.toNat := by
  rw [BitVec.toNat_append, ← Nat.shiftLeft_add_eq_or_of_lt y.isLt, Nat.shiftLeft_eq]

/-- A field as a number. -/
theorem toNat_field {n : Nat} (w : BitVec n) (a k : Nat) : (w.extractLsb' a k).toNat = w.toNat / 2 ^ a % 2 ^ k := by
  rw [BitVec.extractLsb'_toNat, Nat.shiftRight_eq_div_pow]

theorem toNat_headByte (op rsv : BitVec 4) : (headByte op rsv).toNat = rsv.toNat * 2 ^ 4 + op.toNat :=
  toNat_append_eq_add rsv op

theorem toNat_encodeVals (v : ChannelValues) :
    (encodeVals v).toNat = ((v.w.toNat * 2 ^ 8 + v.b.toNat) * 2 ^ 8 + v.g.toNat) * 2 ^ 8 + v.r.toNat := by
  unfold encodeVals
  rw [toNat_append_eq_add, toNat_append_eq_add, toNat_append_eq_add]

/-- The low byte of a command word under anything of 56 bits. -/
theorem toNat_above_headByte (rest : BitVec 56) (op rsv : BitVec 4) :
    (rest ++ headByte op rsv).toNat = rest.toNat * 2 ^ 8 + (rsv.toNat * 2 ^ 4 + op.toNat) := by
  rw [toNat_append_eq_add, toNat_headByte]

end Sys2Proof
end

