-- ==== Sys2Proof/Laws/Memory.lean ====
section
/-! SUPPORT. The laws of canonical sparse lists and of memory: read after write, and that every operation keeps the form. -/

namespace Sys2Proof.Machine

/-! ## Sparse lists -/

@[simp] theorem Sparse.get_nil {α : Type} (a : Nat) : Sparse.get ([] : List (Nat × α)) a = none := rfl

theorem Sparse.get_put {α : Type} (m : List (Nat × α)) (a b : Nat) (v : α) :
    Sparse.get (Sparse.put m a v) b = if b = a then some v else Sparse.get m b := by
  induction m with
  | nil => simp [Sparse.put, Sparse.get]
  | cons c m ih =>
    obtain ⟨k, u⟩ := c
    simp only [Sparse.put]
    by_cases h1 : a < k
    · simp [h1, Sparse.get]
    · by_cases h2 : a = k
      · subst h2
        by_cases hb : b = a <;> simp [Sparse.get, hb]
      · rw [if_neg h1, if_neg h2]
        simp only [Sparse.get, ih]
        by_cases hk : b = k
        · subst hk; simp [Ne.symm h2]
        · simp [hk]

theorem Sparse.get_erase {α : Type} (m : List (Nat × α)) (a b : Nat) :
    Sparse.get (Sparse.erase m a) b = if b = a then none else Sparse.get m b := by
  induction m with
  | nil => simp [Sparse.erase, Sparse.get]
  | cons c m ih =>
    obtain ⟨k, u⟩ := c
    by_cases hk : k = a
    · subst hk
      have : Sparse.erase ((k, u) :: m) k = Sparse.erase m k := by simp [Sparse.erase]
      rw [this, ih]
      by_cases hb : b = k <;> simp [Sparse.get, hb]
    · have : Sparse.erase ((k, u) :: m) a = (k, u) :: Sparse.erase m a := by simp [Sparse.erase, hk]
      rw [this]
      simp only [Sparse.get, ih]
      by_cases hb : b = k
      · subst hb; simp [hk]
      · simp [hb]

theorem Sparse.mem_put {α : Type} {m : List (Nat × α)} {a : Nat} {v : α} {c : Nat × α} (h : c ∈ Sparse.put m a v) :
    c = (a, v) ∨ c ∈ m := by
  induction m with
  | nil => simpa [Sparse.put] using h
  | cons d m ih =>
    obtain ⟨k, u⟩ := d
    simp only [Sparse.put] at h
    split_ifs at h with h1 h2
    · simpa using h
    · rcases List.mem_cons.1 h with h | h
      · exact .inl h
      · exact .inr (List.mem_cons_of_mem _ h)
    · rcases List.mem_cons.1 h with h | h
      · exact .inr (by simp [h])
      · exact (ih h).imp id (List.mem_cons_of_mem _)

theorem Sparse.mem_erase {α : Type} {m : List (Nat × α)} {a : Nat} {c : Nat × α} :
    c ∈ Sparse.erase m a ↔ c ∈ m ∧ c.1 ≠ a := by
  simp [Sparse.erase]

theorem Sparse.sorted_put {α : Type} {m : List (Nat × α)} (a : Nat) (v : α) (h : Sparse.Sorted m) :
    Sparse.Sorted (Sparse.put m a v) := by
  induction m with
  | nil => simp [Sparse.put]
  | cons d m ih =>
    obtain ⟨k, u⟩ := d
    obtain ⟨hk, hm⟩ := List.pairwise_cons.1 h
    simp only [Sparse.put]
    split_ifs with h1 h2
    · refine List.pairwise_cons.2 ⟨fun c hc => ?_, h⟩
      rcases List.mem_cons.1 hc with rfl | hc
      · exact h1
      · exact lt_trans h1 (hk c hc)
    · subst h2
      exact List.pairwise_cons.2 ⟨hk, hm⟩
    · refine List.pairwise_cons.2 ⟨fun c hc => ?_, ih hm⟩
      rcases Sparse.mem_put hc with rfl | hc
      · show k < a
        omega
      · exact hk c hc

theorem Sparse.sorted_erase {α : Type} {m : List (Nat × α)} (a : Nat) (h : Sparse.Sorted m) :
    Sparse.Sorted (Sparse.erase m a) :=
  List.Pairwise.filter _ h

theorem Sparse.get_eq_none_of_lt {α : Type} {m : List (Nat × α)} {a : Nat} (h : ∀ c ∈ m, a < c.1) :
    Sparse.get m a = none := by
  induction m with
  | nil => rfl
  | cons d m ih =>
    obtain ⟨k, u⟩ := d
    have hk : a < k := h (k, u) (by simp)
    have : a ≠ k := by omega
    simp [Sparse.get, this, ih fun c hc => h c (List.mem_cons_of_mem _ hc)]

theorem Sparse.mem_of_get {α : Type} {m : List (Nat × α)} {a : Nat} {v : α} (h : Sparse.get m a = some v) :
    (a, v) ∈ m := by
  induction m with
  | nil => simp at h
  | cons d m ih =>
    obtain ⟨k, u⟩ := d
    simp only [Sparse.get] at h
    split_ifs at h with hk
    · cases h; simp [hk]
    · exact List.mem_cons_of_mem _ (ih h)

theorem Sparse.get_of_mem {α : Type} {m : List (Nat × α)} {a : Nat} {v : α} (hs : Sparse.Sorted m) (h : (a, v) ∈ m) :
    Sparse.get m a = some v := by
  induction m with
  | nil => simp at h
  | cons d m ih =>
    obtain ⟨k, u⟩ := d
    obtain ⟨hk, hm⟩ := List.pairwise_cons.1 hs
    rcases List.mem_cons.1 h with h | h
    · cases h; simp [Sparse.get]
    · have : k < a := hk _ h
      have : a ≠ k := by omega
      simp [Sparse.get, this, ih hm h]

/-- Two canonical lists with the same content at every key are the same data. -/
theorem Sparse.ext {α : Type} {m m' : List (Nat × α)} (hm : Sparse.Sorted m) (hm' : Sparse.Sorted m')
    (h : ∀ a, Sparse.get m a = Sparse.get m' a) : m = m' := by
  have key : ∀ {l l' : List (Nat × α)}, Sparse.Sorted l → (∀ a, Sparse.get l a = Sparse.get l' a) → ∀ c ∈ l, c ∈ l' := by
    intro l l' hl hg c hc
    exact Sparse.mem_of_get ((hg c.1).symm.trans (Sparse.get_of_mem hl hc))
  have nd : ∀ {l : List (Nat × α)}, Sparse.Sorted l → l.Nodup := fun hl =>
    List.Pairwise.imp (fun {a b} (hab : a.1 < b.1) heq => by simp [heq] at hab) hl
  refine List.Perm.eq_of_pairwise (fun a b _ _ hab hba => absurd hab (by omega)) hm hm' ?_
  exact (List.perm_ext_iff_of_nodup (nd hm) (nd hm')).2 fun c =>
    ⟨key hm h c, key hm' (fun a => (h a).symm) c⟩

/-! ## One byte -/

@[simp] theorem Memory.read_nil (d : Byte) (a : Nat) : Memory.read d [] a = d := rfl

/-- Read after write: the byte written at its address, every other byte as before. -/
theorem Memory.read_write (d : Byte) (m : List Host.Cell) (a b : Nat) (v : Byte) :
    Memory.read d (Memory.write d m a v) b = if b = a then v else Memory.read d m b := by
  unfold Memory.read Memory.write
  split_ifs with hv hb hb
  · simp [Sparse.get_erase, hb, hv]
  · simp [Sparse.get_erase, hb]
  · simp [Sparse.get_put, hb]
  · simp [Sparse.get_put, hb]

theorem Memory.wf_nil (d : Byte) : Memory.wf d [] := by simp [Memory.wf]

theorem Memory.wf_write {d : Byte} {m : List Host.Cell} (a : Nat) (v : Byte) (h : Memory.wf d m) :
    Memory.wf d (Memory.write d m a v) := by
  unfold Memory.write
  split_ifs with hv
  · exact ⟨Sparse.sorted_erase a h.1, fun c hc => h.2 c (Sparse.mem_erase.1 hc).1⟩
  · refine ⟨Sparse.sorted_put a v h.1, fun c hc => ?_⟩
    rcases Sparse.mem_put hc with rfl | hc
    · exact hv
    · exact h.2 c hc

theorem Memory.mem_write {d : Byte} {m : List Host.Cell} {a : Nat} {v : Byte} {c : Host.Cell}
    (h : c ∈ Memory.write d m a v) : c.1 = a ∨ c ∈ m := by
  unfold Memory.write at h
  split_ifs at h with hv
  · exact .inr (Sparse.mem_erase.1 h).1
  · rcases Sparse.mem_put h with rfl | h
    · exact .inl rfl
    · exact .inr h

/-- Two canonical memories that read alike at every address are the same data. -/
theorem Memory.ext {d : Byte} {m m' : List Host.Cell} (hm : Memory.wf d m) (hm' : Memory.wf d m')
    (h : ∀ a, Memory.read d m a = Memory.read d m' a) : m = m' := by
  refine Sparse.ext hm.1 hm'.1 fun a => ?_
  have ha := h a
  unfold Memory.read at ha
  rcases h1 : Sparse.get m a with _ | v <;> rcases h2 : Sparse.get m' a with _ | v'
  · rfl
  · exact absurd (by simpa [h1, h2] using ha.symm) (hm'.2 _ (Sparse.mem_of_get h2))
  · exact absurd (by simpa [h1, h2] using ha) (hm.2 _ (Sparse.mem_of_get h1))
  · simpa [h1, h2] using ha

/-! ## Byte sequences -/

theorem Memory.read_writeBytes (d : Byte) (m : List Host.Cell) (a b : Nat) (bs : List Byte) :
    Memory.read d (Memory.writeBytes d m a bs) b
      = if a ≤ b ∧ b < a + bs.length then bs.getD (b - a) 0 else Memory.read d m b := by
  induction bs generalizing m a with
  | nil =>
    simp [Memory.writeBytes]
  | cons x bs ih =>
    simp only [Memory.writeBytes, ih, Memory.read_write, List.length_cons]
    by_cases h1 : a + 1 ≤ b ∧ b < a + 1 + bs.length
    · have h2 : a ≤ b ∧ b < a + (bs.length + 1) := by omega
      have h3 : b - a = (b - (a + 1)) + 1 := by omega
      rw [if_pos h1, if_pos h2, h3, List.getD_cons_succ]
    · by_cases h2 : b = a
      · have h3 : a ≤ b ∧ b < a + (bs.length + 1) := by omega
        rw [if_neg h1, if_pos h2, if_pos h3]
        simp [h2]
      · have h3 : ¬(a ≤ b ∧ b < a + (bs.length + 1)) := by omega
        rw [if_neg h1, if_neg h2, if_neg h3]

theorem Memory.wf_writeBytes {d : Byte} {m : List Host.Cell} (a : Nat) (bs : List Byte) (h : Memory.wf d m) :
    Memory.wf d (Memory.writeBytes d m a bs) := by
  induction bs generalizing m a with
  | nil => exact h
  | cons x bs ih => exact ih (a + 1) (Memory.wf_write a x h)

theorem Memory.mem_writeBytes {d : Byte} {m : List Host.Cell} {a : Nat} {bs : List Byte} {c : Host.Cell}
    (h : c ∈ Memory.writeBytes d m a bs) : c ∈ m ∨ (a ≤ c.1 ∧ c.1 < a + bs.length) := by
  induction bs generalizing m a with
  | nil => exact .inl h
  | cons x bs ih =>
    rcases ih h with h | ⟨h1, h2⟩
    · rcases Memory.mem_write h with h | h
      · right; simp [h]
      · exact .inl h
    · right; simp only [List.length_cons]; omega

@[simp] theorem Memory.length_readBytes (d : Byte) (m : List Host.Cell) (a n : Nat) :
    (Memory.readBytes d m a n).length = n := by
  simp [Memory.readBytes]

@[simp] theorem Memory.getElem_readBytes (d : Byte) (m : List Host.Cell) (a n j : Nat)
    (h : j < (Memory.readBytes d m a n).length) : (Memory.readBytes d m a n)[j] = Memory.read d m (a + j) := by
  simp [Memory.readBytes]

/-- A written sequence reads back. -/
theorem Memory.readBytes_writeBytes (d : Byte) (m : List Host.Cell) (a : Nat) (bs : List Byte) :
    Memory.readBytes d (Memory.writeBytes d m a bs) a bs.length = bs := by
  refine List.ext_getElem (by simp) fun j h1 h2 => ?_
  have h3 : a ≤ a + j ∧ a + j < a + bs.length := by omega
  rw [Memory.getElem_readBytes, Memory.read_writeBytes, if_pos h3]
  simp [h2]

/-- A write elsewhere leaves a sequence as it was. -/
theorem Memory.readBytes_writeBytes_of_disjoint {d : Byte} {m : List Host.Cell} {a b n : Nat} {bs : List Byte}
    (h : b + n ≤ a ∨ a + bs.length ≤ b) :
    Memory.readBytes d (Memory.writeBytes d m a bs) b n = Memory.readBytes d m b n := by
  refine List.ext_getElem (by simp) fun j h1 h2 => ?_
  have hj : j < n := by simpa using h1
  have h3 : ¬(a ≤ b + j ∧ b + j < a + bs.length) := by omega
  rw [Memory.getElem_readBytes, Memory.getElem_readBytes, Memory.read_writeBytes, if_neg h3]

end Sys2Proof.Machine
end

