-- ==== Sys2Proof/Laws/State.lean ====
section
/-! SUPPORT. One lemma per field per update of State, true by rfl, so that no proof unfolds a record update; and what each
operation built on them leaves alone. -/

namespace Sys2Proof.Machine

/-! ## `State.withPhase` -/

@[simp] theorem State.withPhase_cfg (s : State) (p : Phase) : (s.withPhase p).cfg = s.cfg := rfl
@[simp] theorem State.withPhase_ready (s : State) (p : Phase) : (s.withPhase p).ready = s.ready := rfl
@[simp] theorem State.withPhase_initErr (s : State) (p : Phase) : (s.withPhase p).initErr = s.initErr := rfl
@[simp] theorem State.withPhase_buf (s : State) (p : Phase) : (s.withPhase p).buf = s.buf := rfl
@[simp] theorem State.withPhase_led (s : State) (p : Phase) : (s.withPhase p).led = s.led := rfl
@[simp] theorem State.withPhase_phase (s : State) (p : Phase) : (s.withPhase p).phase = p := rfl
@[simp] theorem State.withPhase_dout (s : State) (p : Phase) : (s.withPhase p).dout = s.dout := rfl
@[simp] theorem State.withPhase_outstanding (s : State) (p : Phase) : (s.withPhase p).outstanding = s.outstanding := rfl
@[simp] theorem State.withPhase_waiting (s : State) (p : Phase) : (s.withPhase p).waiting = s.waiting := rfl
@[simp] theorem State.withPhase_serving (s : State) (p : Phase) : (s.withPhase p).serving = s.serving := rfl
@[simp] theorem State.withPhase_resetAsserted (s : State) (p : Phase) :
    (s.withPhase p).resetAsserted = s.resetAsserted := rfl
@[simp] theorem State.withPhase_frames (s : State) (p : Phase) : (s.withPhase p).frames = s.frames := rfl
@[simp] theorem State.withPhase_responses (s : State) (p : Phase) : (s.withPhase p).responses = s.responses := rfl
@[simp] theorem State.withPhase_reads (s : State) (p : Phase) : (s.withPhase p).reads = s.reads := rfl
@[simp] theorem State.withPhase_agenda (s : State) (p : Phase) : (s.withPhase p).agenda = s.agenda := rfl
@[simp] theorem State.withPhase_draws (s : State) (p : Phase) : (s.withPhase p).draws = s.draws := rfl
@[simp] theorem State.withPhase_delay (s : State) (p : Phase) : (s.withPhase p).delay = s.delay := rfl

/-! ## `State.withDout` -/

@[simp] theorem State.withDout_cfg (s : State) (b : Bool) : (s.withDout b).cfg = s.cfg := rfl
@[simp] theorem State.withDout_ready (s : State) (b : Bool) : (s.withDout b).ready = s.ready := rfl
@[simp] theorem State.withDout_initErr (s : State) (b : Bool) : (s.withDout b).initErr = s.initErr := rfl
@[simp] theorem State.withDout_buf (s : State) (b : Bool) : (s.withDout b).buf = s.buf := rfl
@[simp] theorem State.withDout_led (s : State) (b : Bool) : (s.withDout b).led = s.led := rfl
@[simp] theorem State.withDout_phase (s : State) (b : Bool) : (s.withDout b).phase = s.phase := rfl
@[simp] theorem State.withDout_dout (s : State) (b : Bool) : (s.withDout b).dout = b := rfl
@[simp] theorem State.withDout_outstanding (s : State) (b : Bool) : (s.withDout b).outstanding = s.outstanding := rfl
@[simp] theorem State.withDout_waiting (s : State) (b : Bool) : (s.withDout b).waiting = s.waiting := rfl
@[simp] theorem State.withDout_serving (s : State) (b : Bool) : (s.withDout b).serving = s.serving := rfl
@[simp] theorem State.withDout_resetAsserted (s : State) (b : Bool) :
    (s.withDout b).resetAsserted = s.resetAsserted := rfl
@[simp] theorem State.withDout_frames (s : State) (b : Bool) : (s.withDout b).frames = s.frames := rfl
@[simp] theorem State.withDout_responses (s : State) (b : Bool) : (s.withDout b).responses = s.responses := rfl
@[simp] theorem State.withDout_reads (s : State) (b : Bool) : (s.withDout b).reads = s.reads := rfl
@[simp] theorem State.withDout_agenda (s : State) (b : Bool) : (s.withDout b).agenda = s.agenda := rfl
@[simp] theorem State.withDout_draws (s : State) (b : Bool) : (s.withDout b).draws = s.draws := rfl
@[simp] theorem State.withDout_delay (s : State) (b : Bool) : (s.withDout b).delay = s.delay := rfl

/-! ## `State.setLedValues` -/

@[simp] theorem State.setLedValues_cfg (s : State) (i : Nat) (vs : List Byte) : (s.setLedValues i vs).cfg = s.cfg := rfl
@[simp] theorem State.setLedValues_ready (s : State) (i : Nat) (vs : List Byte) :
    (s.setLedValues i vs).ready = s.ready := rfl
@[simp] theorem State.setLedValues_initErr (s : State) (i : Nat) (vs : List Byte) :
    (s.setLedValues i vs).initErr = s.initErr := rfl
@[simp] theorem State.setLedValues_buf (s : State) (i : Nat) (vs : List Byte) : (s.setLedValues i vs).buf = s.buf := rfl
@[simp] theorem State.setLedValues_led (s : State) (i : Nat) (vs : List Byte) :
    (s.setLedValues i vs).led = Memory.writeBytes 0 s.led (i * s.cfg.channels) vs := rfl
@[simp] theorem State.setLedValues_phase (s : State) (i : Nat) (vs : List Byte) :
    (s.setLedValues i vs).phase = s.phase := rfl
@[simp] theorem State.setLedValues_dout (s : State) (i : Nat) (vs : List Byte) :
    (s.setLedValues i vs).dout = s.dout := rfl
@[simp] theorem State.setLedValues_outstanding (s : State) (i : Nat) (vs : List Byte) :
    (s.setLedValues i vs).outstanding = s.outstanding := rfl
@[simp] theorem State.setLedValues_waiting (s : State) (i : Nat) (vs : List Byte) :
    (s.setLedValues i vs).waiting = s.waiting := rfl
@[simp] theorem State.setLedValues_serving (s : State) (i : Nat) (vs : List Byte) :
    (s.setLedValues i vs).serving = s.serving := rfl
@[simp] theorem State.setLedValues_resetAsserted (s : State) (i : Nat) (vs : List Byte) :
    (s.setLedValues i vs).resetAsserted = s.resetAsserted := rfl
@[simp] theorem State.setLedValues_frames (s : State) (i : Nat) (vs : List Byte) :
    (s.setLedValues i vs).frames = s.frames := rfl
@[simp] theorem State.setLedValues_responses (s : State) (i : Nat) (vs : List Byte) :
    (s.setLedValues i vs).responses = s.responses := rfl
@[simp] theorem State.setLedValues_reads (s : State) (i : Nat) (vs : List Byte) :
    (s.setLedValues i vs).reads = s.reads := rfl
@[simp] theorem State.setLedValues_agenda (s : State) (i : Nat) (vs : List Byte) :
    (s.setLedValues i vs).agenda = s.agenda := rfl
@[simp] theorem State.setLedValues_draws (s : State) (i : Nat) (vs : List Byte) :
    (s.setLedValues i vs).draws = s.draws := rfl
@[simp] theorem State.setLedValues_delay (s : State) (i : Nat) (vs : List Byte) :
    (s.setLedValues i vs).delay = s.delay := rfl

/-! ## `State.openFrame` -/

@[simp] theorem State.openFrame_cfg (s : State) : s.openFrame.cfg = s.cfg := rfl
@[simp] theorem State.openFrame_ready (s : State) : s.openFrame.ready = s.ready := rfl
@[simp] theorem State.openFrame_initErr (s : State) : s.openFrame.initErr = s.initErr := rfl
@[simp] theorem State.openFrame_buf (s : State) : s.openFrame.buf = s.buf := rfl
@[simp] theorem State.openFrame_led (s : State) : s.openFrame.led = s.led := rfl
@[simp] theorem State.openFrame_phase (s : State) : s.openFrame.phase = s.phase := rfl
@[simp] theorem State.openFrame_dout (s : State) : s.openFrame.dout = s.dout := rfl
@[simp] theorem State.openFrame_outstanding (s : State) : s.openFrame.outstanding = s.outstanding := rfl
@[simp] theorem State.openFrame_waiting (s : State) : s.openFrame.waiting = s.waiting := rfl
@[simp] theorem State.openFrame_serving (s : State) : s.openFrame.serving = s.serving := rfl
@[simp] theorem State.openFrame_resetAsserted (s : State) : s.openFrame.resetAsserted = s.resetAsserted := rfl
@[simp] theorem State.openFrame_frames (s : State) : s.openFrame.frames = s.frames ++ [.frame [] .inProgress] := rfl
@[simp] theorem State.openFrame_responses (s : State) : s.openFrame.responses = s.responses := rfl
@[simp] theorem State.openFrame_reads (s : State) : s.openFrame.reads = s.reads := rfl
@[simp] theorem State.openFrame_agenda (s : State) : s.openFrame.agenda = s.agenda := rfl
@[simp] theorem State.openFrame_draws (s : State) : s.openFrame.draws = s.draws := rfl
@[simp] theorem State.openFrame_delay (s : State) : s.openFrame.delay = s.delay := rfl

/-! ## `State.emit` -/

@[simp] theorem State.emit_cfg (s : State) (b : Bool) : (s.emit b).cfg = s.cfg := rfl
@[simp] theorem State.emit_ready (s : State) (b : Bool) : (s.emit b).ready = s.ready := rfl
@[simp] theorem State.emit_initErr (s : State) (b : Bool) : (s.emit b).initErr = s.initErr := rfl
@[simp] theorem State.emit_buf (s : State) (b : Bool) : (s.emit b).buf = s.buf := rfl
@[simp] theorem State.emit_led (s : State) (b : Bool) : (s.emit b).led = s.led := rfl
@[simp] theorem State.emit_phase (s : State) (b : Bool) : (s.emit b).phase = s.phase := rfl
@[simp] theorem State.emit_dout (s : State) (b : Bool) : (s.emit b).dout = b := rfl
@[simp] theorem State.emit_outstanding (s : State) (b : Bool) : (s.emit b).outstanding = s.outstanding := rfl
@[simp] theorem State.emit_waiting (s : State) (b : Bool) : (s.emit b).waiting = s.waiting := rfl
@[simp] theorem State.emit_serving (s : State) (b : Bool) : (s.emit b).serving = s.serving := rfl
@[simp] theorem State.emit_resetAsserted (s : State) (b : Bool) : (s.emit b).resetAsserted = s.resetAsserted := rfl
@[simp] theorem State.emit_frames (s : State) (b : Bool) :
    (s.emit b).frames = updateLast (FrameEntry.push b) s.frames := rfl
@[simp] theorem State.emit_responses (s : State) (b : Bool) : (s.emit b).responses = s.responses := rfl
@[simp] theorem State.emit_reads (s : State) (b : Bool) : (s.emit b).reads = s.reads := rfl
@[simp] theorem State.emit_agenda (s : State) (b : Bool) : (s.emit b).agenda = s.agenda := rfl
@[simp] theorem State.emit_draws (s : State) (b : Bool) : (s.emit b).draws = s.draws := rfl
@[simp] theorem State.emit_delay (s : State) (b : Bool) : (s.emit b).delay = s.delay := rfl

/-! ## `State.markFrame` -/

@[simp] theorem State.markFrame_cfg (s : State) (st : FrameStatus) : (s.markFrame st).cfg = s.cfg := rfl
@[simp] theorem State.markFrame_ready (s : State) (st : FrameStatus) : (s.markFrame st).ready = s.ready := rfl
@[simp] theorem State.markFrame_initErr (s : State) (st : FrameStatus) : (s.markFrame st).initErr = s.initErr := rfl
@[simp] theorem State.markFrame_buf (s : State) (st : FrameStatus) : (s.markFrame st).buf = s.buf := rfl
@[simp] theorem State.markFrame_led (s : State) (st : FrameStatus) : (s.markFrame st).led = s.led := rfl
@[simp] theorem State.markFrame_phase (s : State) (st : FrameStatus) : (s.markFrame st).phase = s.phase := rfl
@[simp] theorem State.markFrame_dout (s : State) (st : FrameStatus) : (s.markFrame st).dout = s.dout := rfl
@[simp] theorem State.markFrame_outstanding (s : State) (st : FrameStatus) :
    (s.markFrame st).outstanding = s.outstanding := rfl
@[simp] theorem State.markFrame_waiting (s : State) (st : FrameStatus) : (s.markFrame st).waiting = s.waiting := rfl
@[simp] theorem State.markFrame_serving (s : State) (st : FrameStatus) : (s.markFrame st).serving = s.serving := rfl
@[simp] theorem State.markFrame_resetAsserted (s : State) (st : FrameStatus) :
    (s.markFrame st).resetAsserted = s.resetAsserted := rfl
@[simp] theorem State.markFrame_frames (s : State) (st : FrameStatus) :
    (s.markFrame st).frames = updateLast (FrameEntry.mark st) s.frames := rfl
@[simp] theorem State.markFrame_responses (s : State) (st : FrameStatus) :
    (s.markFrame st).responses = s.responses := rfl
@[simp] theorem State.markFrame_reads (s : State) (st : FrameStatus) : (s.markFrame st).reads = s.reads := rfl
@[simp] theorem State.markFrame_agenda (s : State) (st : FrameStatus) : (s.markFrame st).agenda = s.agenda := rfl
@[simp] theorem State.markFrame_draws (s : State) (st : FrameStatus) : (s.markFrame st).draws = s.draws := rfl
@[simp] theorem State.markFrame_delay (s : State) (st : FrameStatus) : (s.markFrame st).delay = s.delay := rfl

/-! ## `State.finish` -/

@[simp] theorem State.finish_cfg (s : State) (h : HostId) (w : Word) (code : RespCode) (detail : Byte) (data : List Byte) :
    (s.finish h w code detail data).cfg = s.cfg := rfl
@[simp] theorem State.finish_ready (s : State) (h : HostId) (w : Word) (code : RespCode) (detail : Byte) (data : List Byte) :
    (s.finish h w code detail data).ready = s.ready := rfl
@[simp] theorem State.finish_initErr (s : State) (h : HostId) (w : Word) (code : RespCode) (detail : Byte) (data : List Byte) :
    (s.finish h w code detail data).initErr = s.initErr := rfl
@[simp] theorem State.finish_buf (s : State) (h : HostId) (w : Word) (code : RespCode) (detail : Byte) (data : List Byte) :
    (s.finish h w code detail data).buf = s.buf := rfl
@[simp] theorem State.finish_led (s : State) (h : HostId) (w : Word) (code : RespCode) (detail : Byte) (data : List Byte) :
    (s.finish h w code detail data).led = s.led := rfl
@[simp] theorem State.finish_phase (s : State) (h : HostId) (w : Word) (code : RespCode) (detail : Byte) (data : List Byte) :
    (s.finish h w code detail data).phase = s.phase := rfl
@[simp] theorem State.finish_dout (s : State) (h : HostId) (w : Word) (code : RespCode) (detail : Byte) (data : List Byte) :
    (s.finish h w code detail data).dout = s.dout := rfl
@[simp] theorem State.finish_outstanding (s : State) (h : HostId) (w : Word) (code : RespCode) (detail : Byte) (data : List Byte) :
    (s.finish h w code detail data).outstanding = Sparse.erase s.outstanding h := rfl
@[simp] theorem State.finish_waiting (s : State) (h : HostId) (w : Word) (code : RespCode) (detail : Byte) (data : List Byte) :
    (s.finish h w code detail data).waiting = s.waiting := rfl
@[simp] theorem State.finish_serving (s : State) (h : HostId) (w : Word) (code : RespCode) (detail : Byte) (data : List Byte) :
    (s.finish h w code detail data).serving = s.serving := rfl
@[simp] theorem State.finish_resetAsserted (s : State) (h : HostId) (w : Word) (code : RespCode) (detail : Byte) (data : List Byte) :
    (s.finish h w code detail data).resetAsserted = s.resetAsserted := rfl
@[simp] theorem State.finish_frames (s : State) (h : HostId) (w : Word) (code : RespCode) (detail : Byte) (data : List Byte) :
    (s.finish h w code detail data).frames = s.frames := rfl
@[simp] theorem State.finish_responses (s : State) (h : HostId) (w : Word) (code : RespCode) (detail : Byte) (data : List Byte) :
    (s.finish h w code detail data).responses = s.responses ++ [.answer h w { code := code, detail := detail, data := data }] := rfl
@[simp] theorem State.finish_reads (s : State) (h : HostId) (w : Word) (code : RespCode) (detail : Byte) (data : List Byte) :
    (s.finish h w code detail data).reads = s.reads := rfl
@[simp] theorem State.finish_agenda (s : State) (h : HostId) (w : Word) (code : RespCode) (detail : Byte) (data : List Byte) :
    (s.finish h w code detail data).agenda = s.agenda := rfl
@[simp] theorem State.finish_draws (s : State) (h : HostId) (w : Word) (code : RespCode) (detail : Byte) (data : List Byte) :
    (s.finish h w code detail data).draws = s.draws := rfl
@[simp] theorem State.finish_delay (s : State) (h : HostId) (w : Word) (code : RespCode) (detail : Byte) (data : List Byte) :
    (s.finish h w code detail data).delay = s.delay := rfl

/-! ## `State.respond` -/

@[simp] theorem State.respond_cfg (s : State) (w : Word) (code : RespCode) (detail : Byte) (data : List Byte) :
    (s.respond w code detail data).cfg = s.cfg := rfl
@[simp] theorem State.respond_ready (s : State) (w : Word) (code : RespCode) (detail : Byte) (data : List Byte) :
    (s.respond w code detail data).ready = s.ready := rfl
@[simp] theorem State.respond_initErr (s : State) (w : Word) (code : RespCode) (detail : Byte) (data : List Byte) :
    (s.respond w code detail data).initErr = s.initErr := rfl
@[simp] theorem State.respond_buf (s : State) (w : Word) (code : RespCode) (detail : Byte) (data : List Byte) :
    (s.respond w code detail data).buf = s.buf := rfl
@[simp] theorem State.respond_led (s : State) (w : Word) (code : RespCode) (detail : Byte) (data : List Byte) :
    (s.respond w code detail data).led = s.led := rfl
@[simp] theorem State.respond_phase (s : State) (w : Word) (code : RespCode) (detail : Byte) (data : List Byte) :
    (s.respond w code detail data).phase = s.phase := rfl
@[simp] theorem State.respond_dout (s : State) (w : Word) (code : RespCode) (detail : Byte) (data : List Byte) :
    (s.respond w code detail data).dout = s.dout := rfl
@[simp] theorem State.respond_outstanding (s : State) (w : Word) (code : RespCode) (detail : Byte) (data : List Byte) :
    (s.respond w code detail data).outstanding = Sparse.erase s.outstanding s.serving := rfl
@[simp] theorem State.respond_waiting (s : State) (w : Word) (code : RespCode) (detail : Byte) (data : List Byte) :
    (s.respond w code detail data).waiting = s.waiting := rfl
@[simp] theorem State.respond_serving (s : State) (w : Word) (code : RespCode) (detail : Byte) (data : List Byte) :
    (s.respond w code detail data).serving = s.serving := rfl
@[simp] theorem State.respond_resetAsserted (s : State) (w : Word) (code : RespCode) (detail : Byte) (data : List Byte) :
    (s.respond w code detail data).resetAsserted = s.resetAsserted := rfl
@[simp] theorem State.respond_frames (s : State) (w : Word) (code : RespCode) (detail : Byte) (data : List Byte) :
    (s.respond w code detail data).frames = s.frames := rfl
@[simp] theorem State.respond_responses (s : State) (w : Word) (code : RespCode) (detail : Byte) (data : List Byte) :
    (s.respond w code detail data).responses = s.responses ++ [.answer s.serving w { code := code, detail := detail, data := data }] := rfl
@[simp] theorem State.respond_reads (s : State) (w : Word) (code : RespCode) (detail : Byte) (data : List Byte) :
    (s.respond w code detail data).reads = s.reads := rfl
@[simp] theorem State.respond_agenda (s : State) (w : Word) (code : RespCode) (detail : Byte) (data : List Byte) :
    (s.respond w code detail data).agenda = s.agenda := rfl
@[simp] theorem State.respond_draws (s : State) (w : Word) (code : RespCode) (detail : Byte) (data : List Byte) :
    (s.respond w code detail data).draws = s.draws := rfl
@[simp] theorem State.respond_delay (s : State) (w : Word) (code : RespCode) (detail : Byte) (data : List Byte) :
    (s.respond w code detail data).delay = s.delay := rfl

/-! ## `State.raise` -/

@[simp] theorem State.raise_cfg (s : State) (w : Word) (e : RespCode) (detail : Byte) :
    (s.raise w e detail).cfg = s.cfg := rfl
@[simp] theorem State.raise_ready (s : State) (w : Word) (e : RespCode) (detail : Byte) :
    (s.raise w e detail).ready = s.ready := rfl
@[simp] theorem State.raise_initErr (s : State) (w : Word) (e : RespCode) (detail : Byte) :
    (s.raise w e detail).initErr = s.initErr := rfl
@[simp] theorem State.raise_buf (s : State) (w : Word) (e : RespCode) (detail : Byte) :
    (s.raise w e detail).buf = s.buf := rfl
@[simp] theorem State.raise_led (s : State) (w : Word) (e : RespCode) (detail : Byte) :
    (s.raise w e detail).led = s.led := rfl
@[simp] theorem State.raise_phase (s : State) (w : Word) (e : RespCode) (detail : Byte) :
    (s.raise w e detail).phase = s.phase := rfl
@[simp] theorem State.raise_dout (s : State) (w : Word) (e : RespCode) (detail : Byte) :
    (s.raise w e detail).dout = s.dout := rfl
@[simp] theorem State.raise_outstanding (s : State) (w : Word) (e : RespCode) (detail : Byte) :
    (s.raise w e detail).outstanding = Sparse.erase s.outstanding s.serving := rfl
@[simp] theorem State.raise_waiting (s : State) (w : Word) (e : RespCode) (detail : Byte) :
    (s.raise w e detail).waiting = s.waiting := rfl
@[simp] theorem State.raise_serving (s : State) (w : Word) (e : RespCode) (detail : Byte) :
    (s.raise w e detail).serving = s.serving := rfl
@[simp] theorem State.raise_resetAsserted (s : State) (w : Word) (e : RespCode) (detail : Byte) :
    (s.raise w e detail).resetAsserted = s.resetAsserted := rfl
@[simp] theorem State.raise_frames (s : State) (w : Word) (e : RespCode) (detail : Byte) :
    (s.raise w e detail).frames = s.frames := rfl
@[simp] theorem State.raise_responses (s : State) (w : Word) (e : RespCode) (detail : Byte) :
    (s.raise w e detail).responses = s.responses ++ [.answer s.serving w { code := e, detail := detail, data := zeros }] := rfl
@[simp] theorem State.raise_reads (s : State) (w : Word) (e : RespCode) (detail : Byte) :
    (s.raise w e detail).reads = s.reads := rfl
@[simp] theorem State.raise_agenda (s : State) (w : Word) (e : RespCode) (detail : Byte) :
    (s.raise w e detail).agenda = s.agenda := rfl
@[simp] theorem State.raise_draws (s : State) (w : Word) (e : RespCode) (detail : Byte) :
    (s.raise w e detail).draws = s.draws := rfl
@[simp] theorem State.raise_delay (s : State) (w : Word) (e : RespCode) (detail : Byte) :
    (s.raise w e detail).delay = s.delay := rfl

/-! ## `State.take` -/

@[simp] theorem State.take_cfg (s : State) (h : HostId) (w : Word) : (s.take h w).cfg = s.cfg := rfl
@[simp] theorem State.take_ready (s : State) (h : HostId) (w : Word) : (s.take h w).ready = s.ready := rfl
@[simp] theorem State.take_initErr (s : State) (h : HostId) (w : Word) : (s.take h w).initErr = s.initErr := rfl
@[simp] theorem State.take_buf (s : State) (h : HostId) (w : Word) : (s.take h w).buf = s.buf := rfl
@[simp] theorem State.take_led (s : State) (h : HostId) (w : Word) : (s.take h w).led = s.led := rfl
@[simp] theorem State.take_phase (s : State) (h : HostId) (w : Word) : (s.take h w).phase = s.phase := rfl
@[simp] theorem State.take_dout (s : State) (h : HostId) (w : Word) : (s.take h w).dout = s.dout := rfl
@[simp] theorem State.take_outstanding (s : State) (h : HostId) (w : Word) :
    (s.take h w).outstanding = Sparse.put s.outstanding h w := rfl
@[simp] theorem State.take_waiting (s : State) (h : HostId) (w : Word) :
    (s.take h w).waiting = Sparse.erase s.waiting h := rfl
@[simp] theorem State.take_serving (s : State) (h : HostId) (w : Word) : (s.take h w).serving = h := rfl
@[simp] theorem State.take_resetAsserted (s : State) (h : HostId) (w : Word) :
    (s.take h w).resetAsserted = s.resetAsserted := rfl
@[simp] theorem State.take_frames (s : State) (h : HostId) (w : Word) : (s.take h w).frames = s.frames := rfl
@[simp] theorem State.take_responses (s : State) (h : HostId) (w : Word) : (s.take h w).responses = s.responses := rfl
@[simp] theorem State.take_reads (s : State) (h : HostId) (w : Word) : (s.take h w).reads = s.reads := rfl
@[simp] theorem State.take_agenda (s : State) (h : HostId) (w : Word) : (s.take h w).agenda = s.agenda := rfl
@[simp] theorem State.take_draws (s : State) (h : HostId) (w : Word) : (s.take h w).draws = s.draws := rfl
@[simp] theorem State.take_delay (s : State) (h : HostId) (w : Word) : (s.take h w).delay = s.delay := rfl

/-! ## `State.startFrame` -/

@[simp] theorem State.startFrame_cfg (s : State) : s.startFrame.cfg = s.cfg := rfl
@[simp] theorem State.startFrame_ready (s : State) : s.startFrame.ready = s.ready := rfl
@[simp] theorem State.startFrame_initErr (s : State) : s.startFrame.initErr = s.initErr := rfl
@[simp] theorem State.startFrame_buf (s : State) : s.startFrame.buf = s.buf := rfl
@[simp] theorem State.startFrame_led (s : State) : s.startFrame.led = s.led := rfl
@[simp] theorem State.startFrame_phase (s : State) : s.startFrame.phase = .tx s.serving 0 := rfl
@[simp] theorem State.startFrame_dout (s : State) : s.startFrame.dout = s.dout := rfl
@[simp] theorem State.startFrame_outstanding (s : State) : s.startFrame.outstanding = s.outstanding := rfl
@[simp] theorem State.startFrame_waiting (s : State) : s.startFrame.waiting = s.waiting := rfl
@[simp] theorem State.startFrame_serving (s : State) : s.startFrame.serving = s.serving := rfl
@[simp] theorem State.startFrame_resetAsserted (s : State) : s.startFrame.resetAsserted = s.resetAsserted := rfl
@[simp] theorem State.startFrame_frames (s : State) : s.startFrame.frames = s.frames ++ [.frame [] .inProgress] := rfl
@[simp] theorem State.startFrame_responses (s : State) : s.startFrame.responses = s.responses := rfl
@[simp] theorem State.startFrame_reads (s : State) : s.startFrame.reads = s.reads := rfl
@[simp] theorem State.startFrame_agenda (s : State) : s.startFrame.agenda = s.agenda := rfl
@[simp] theorem State.startFrame_draws (s : State) : s.startFrame.draws = s.draws := rfl
@[simp] theorem State.startFrame_delay (s : State) : s.startFrame.delay = s.delay := rfl

/-! ## `State.lowPeriod` -/

@[simp] theorem State.lowPeriod_cfg (s : State) : s.lowPeriod.cfg = s.cfg := rfl
@[simp] theorem State.lowPeriod_ready (s : State) : s.lowPeriod.ready = s.ready := rfl
@[simp] theorem State.lowPeriod_initErr (s : State) : s.lowPeriod.initErr = s.initErr := rfl
@[simp] theorem State.lowPeriod_buf (s : State) : s.lowPeriod.buf = s.buf := rfl
@[simp] theorem State.lowPeriod_led (s : State) : s.lowPeriod.led = s.led := rfl
@[simp] theorem State.lowPeriod_phase (s : State) : s.lowPeriod.phase = s.phase := rfl
@[simp] theorem State.lowPeriod_dout (s : State) : s.lowPeriod.dout = false := rfl
@[simp] theorem State.lowPeriod_outstanding (s : State) : s.lowPeriod.outstanding = s.outstanding := rfl
@[simp] theorem State.lowPeriod_waiting (s : State) : s.lowPeriod.waiting = s.waiting := rfl
@[simp] theorem State.lowPeriod_serving (s : State) : s.lowPeriod.serving = s.serving := rfl
@[simp] theorem State.lowPeriod_resetAsserted (s : State) : s.lowPeriod.resetAsserted = s.resetAsserted := rfl
@[simp] theorem State.lowPeriod_frames (s : State) : s.lowPeriod.frames = s.frames := rfl
@[simp] theorem State.lowPeriod_responses (s : State) : s.lowPeriod.responses = s.responses := rfl
@[simp] theorem State.lowPeriod_reads (s : State) : s.lowPeriod.reads = s.reads := rfl
@[simp] theorem State.lowPeriod_agenda (s : State) : s.lowPeriod.agenda = s.agenda := rfl
@[simp] theorem State.lowPeriod_draws (s : State) : s.lowPeriod.draws = s.draws := rfl
@[simp] theorem State.lowPeriod_delay (s : State) : s.lowPeriod.delay = s.delay := rfl

/-! ## `State.answerRead` -/

@[simp] theorem State.answerRead_cfg (s : State) (h : HostId) (off width : Nat) :
    (s.answerRead h off width).cfg = s.cfg := rfl
@[simp] theorem State.answerRead_ready (s : State) (h : HostId) (off width : Nat) :
    (s.answerRead h off width).ready = s.ready := rfl
@[simp] theorem State.answerRead_initErr (s : State) (h : HostId) (off width : Nat) :
    (s.answerRead h off width).initErr = s.initErr := rfl
@[simp] theorem State.answerRead_buf (s : State) (h : HostId) (off width : Nat) :
    (s.answerRead h off width).buf = s.buf := rfl
@[simp] theorem State.answerRead_led (s : State) (h : HostId) (off width : Nat) :
    (s.answerRead h off width).led = s.led := rfl
@[simp] theorem State.answerRead_phase (s : State) (h : HostId) (off width : Nat) :
    (s.answerRead h off width).phase = s.phase := rfl
@[simp] theorem State.answerRead_dout (s : State) (h : HostId) (off width : Nat) :
    (s.answerRead h off width).dout = s.dout := rfl
@[simp] theorem State.answerRead_outstanding (s : State) (h : HostId) (off width : Nat) :
    (s.answerRead h off width).outstanding = s.outstanding := rfl
@[simp] theorem State.answerRead_waiting (s : State) (h : HostId) (off width : Nat) :
    (s.answerRead h off width).waiting = s.waiting := rfl
@[simp] theorem State.answerRead_serving (s : State) (h : HostId) (off width : Nat) :
    (s.answerRead h off width).serving = s.serving := rfl
@[simp] theorem State.answerRead_resetAsserted (s : State) (h : HostId) (off width : Nat) :
    (s.answerRead h off width).resetAsserted = s.resetAsserted := rfl
@[simp] theorem State.answerRead_frames (s : State) (h : HostId) (off width : Nat) :
    (s.answerRead h off width).frames = s.frames := rfl
@[simp] theorem State.answerRead_responses (s : State) (h : HostId) (off width : Nat) :
    (s.answerRead h off width).responses = s.responses := rfl
@[simp] theorem State.answerRead_reads (s : State) (h : HostId) (off width : Nat) :
    (s.answerRead h off width).reads = s.reads ++ [{ h := h, off := off, width := width, result := s.readReg off width }] := rfl
@[simp] theorem State.answerRead_agenda (s : State) (h : HostId) (off width : Nat) :
    (s.answerRead h off width).agenda = s.agenda := rfl
@[simp] theorem State.answerRead_draws (s : State) (h : HostId) (off width : Nat) :
    (s.answerRead h off width).draws = s.draws := rfl
@[simp] theorem State.answerRead_delay (s : State) (h : HostId) (off width : Nat) :
    (s.answerRead h off width).delay = s.delay := rfl

/-! ## `State.popAction` -/

@[simp] theorem State.popAction_cfg (s : State) : s.popAction.cfg = s.cfg := by unfold State.popAction; split <;> rfl
@[simp] theorem State.popAction_ready (s : State) : s.popAction.ready = s.ready := by unfold State.popAction; split <;> rfl
@[simp] theorem State.popAction_initErr (s : State) : s.popAction.initErr = s.initErr := by unfold State.popAction; split <;> rfl
@[simp] theorem State.popAction_buf (s : State) : s.popAction.buf = s.buf := by unfold State.popAction; split <;> rfl
@[simp] theorem State.popAction_led (s : State) : s.popAction.led = s.led := by unfold State.popAction; split <;> rfl
@[simp] theorem State.popAction_phase (s : State) : s.popAction.phase = s.phase := by unfold State.popAction; split <;> rfl
@[simp] theorem State.popAction_dout (s : State) : s.popAction.dout = s.dout := by unfold State.popAction; split <;> rfl
@[simp] theorem State.popAction_outstanding (s : State) : s.popAction.outstanding = s.outstanding := by unfold State.popAction; split <;> rfl
@[simp] theorem State.popAction_waiting (s : State) : s.popAction.waiting = s.waiting := by unfold State.popAction; split <;> rfl
@[simp] theorem State.popAction_serving (s : State) : s.popAction.serving = s.serving := by unfold State.popAction; split <;> rfl
@[simp] theorem State.popAction_resetAsserted (s : State) : s.popAction.resetAsserted = s.resetAsserted := by unfold State.popAction; split <;> rfl
@[simp] theorem State.popAction_frames (s : State) : s.popAction.frames = s.frames := by unfold State.popAction; split <;> rfl
@[simp] theorem State.popAction_responses (s : State) : s.popAction.responses = s.responses := by unfold State.popAction; split <;> rfl
@[simp] theorem State.popAction_reads (s : State) : s.popAction.reads = s.reads := by unfold State.popAction; split <;> rfl

end Sys2Proof.Machine
end

