-- ==== Sys2Proof/Laws/Symbols.lean ====
section
/-! SUPPORT. Lengths of symbol sequences, and what a valid configuration gives (R73, R79, R128). -/

namespace Sys2Proof.Machine

@[simp] theorem length_encodeLoop (c : Config) (n : Nat) (x : Byte) : (encodeLoop c n x).length = n := by
  induction n generalizing x with
  | zero => rfl
  | succ n ih => simp [encodeLoop, ih]

@[simp] theorem length_encodeSymbols (c : Config) (v : Byte) : (encodeSymbols c v).length = 8 :=
  length_encodeLoop c 8 v

@[simp] theorem length_formatWire (c : Config) (vs : List Byte) : (formatWire c vs).length = 8 * vs.length := by
  induction vs with
  | nil => rfl
  | cons v vs ih =>
    have : formatWire c (v :: vs) = encodeSymbols c v ++ formatWire c vs := rfl
    rw [this, List.length_append, ih, length_encodeSymbols, List.length_cons]
    omega

@[simp] theorem length_wireOrder (c : Config) : c.wireOrder.length = min c.channels 4 := by
  simp [Config.wireOrder, ChannelOrder.toList]

@[simp] theorem length_wireVals (c : Config) (vals : ChannelValues) : (wireVals c vals).length = min c.channels 4 := by
  simp [wireVals]

theorem ledIndex_eq (index : BitVec 24) : ledIndex index = index.toNat := by
  simp only [ledIndex, BitVec.toNat_setWidth]
  have := index.isLt
  omega

end Sys2Proof.Machine

namespace Sys2Proof

/-- The tests of `init_check`'s first branch, taken apart (R128). -/
theorem Config.profileValid_iff (c : Config) :
    c.profileValid = true ↔ c.bitsPerChannel = 8 ∧ (c.channels = 3 ∨ c.channels = 4) ∧ c.wireOrder.Nodup ∧
      c.zeroSymbol ≠ c.oneSymbol ∧ c.busFreqHz.toNat = 8 * c.nativeBitRateHz.toNat ∧
      c.busClockSupported c.busFreqHz.toNat = true := by
  simp only [Config.profileValid, Bool.and_eq_true, decide_eq_true_eq]
  tauto

theorem Config.initCheck_eq_noError_iff (c : Config) :
    c.initCheck = .noError ↔ c.profileValid = true ∧ c.bufferFits = true := by
  unfold Config.initCheck
  cases c.profileValid <;> cases c.bufferFits <;> simp

theorem Config.initReady_iff (c : Config) : c.initReady = true ↔ c.profileValid = true ∧ c.bufferFits = true := by
  simp [Config.initReady, Config.initCheck_eq_noError_iff]

theorem Config.channels_pos {c : Config} (h : c.profileValid = true) : 0 < c.channels ∧ c.channels ≤ 4 := by
  have := (Config.profileValid_iff c |>.1 h).2.1
  omega

theorem Config.pixelSymbolSize_of_valid {c : Config} (h : c.profileValid = true) : c.pixelSymbolSize = 8 * c.channels := by
  simp [Config.pixelSymbolSize, (Config.profileValid_iff c |>.1 h).1]

end Sys2Proof

namespace Sys2Proof.Machine

theorem length_formatPixel {c : Config} (vals : ChannelValues) (h : c.profileValid = true) :
    (formatPixel c vals).length = c.pixelSymbolSize := by
  have := Config.channels_pos h
  rw [formatPixel, length_formatWire, length_wireVals, Config.pixelSymbolSize_of_valid h]
  omega

/-- The region of an LED of the strip lies inside the frame (R86). -/
theorem regionStart_add_le {c : Config} {i : Nat} (h : i < c.leds) :
    regionStart c i + c.pixelSymbolSize ≤ c.frameBytes := by
  have := Nat.mul_le_mul_right c.pixelSymbolSize (Nat.succ_le_of_lt h)
  simp only [regionStart, Config.frameBytes]
  rw [Nat.succ_mul] at this
  exact this

end Sys2Proof.Machine
end

