-- ==== Sys2Proof/Laws/Ops.lean ====
section
/-! SUPPORT. One lemma per shared operation that says everything it can do, and what a step can be. -/

namespace Sys2Proof.Machine

/-! ## Strip buffer -/

theorem State.bufSize_of_ready {s : State} (h : s.ready = true) : s.bufSize = s.cfg.frameBytes := by
  simp [State.bufSize, h]

theorem State.memWrite_eq_some {s t : State} {a n : Nat} {bs : List Byte} :
    s.memWrite a n bs = some t ↔
      bs.length = n ∧ a + n ≤ s.bufSize ∧ t = { s with buf := Memory.writeBytes s.cfg.zeroSymbol s.buf a bs } := by
  unfold State.memWrite
  split_ifs with h
  · simp only [Option.some.injEq, h, true_and]
    exact eq_comm
  · simp only [false_iff]
    tauto

/-- `set_led` (R85) that writes: the index is in range and the state gains the LED's values and its region. -/
theorem State.setLed_eq_ok {s t : State} {i : Nat} {vals : ChannelValues} :
    s.setLed i vals = .ok t ↔
      i < s.cfg.leds ∧ (formatPixel s.cfg vals).length = s.cfg.pixelSymbolSize
        ∧ regionStart s.cfg i + s.cfg.pixelSymbolSize ≤ s.bufSize
        ∧ t = { s with
            led := Memory.writeBytes 0 s.led (i * s.cfg.channels) (wireVals s.cfg vals)
            buf := Memory.writeBytes s.cfg.zeroSymbol s.buf (regionStart s.cfg i) (formatPixel s.cfg vals) } := by
  unfold State.setLed
  by_cases hi : i ≥ s.cfg.leds
  · have : ¬i < s.cfg.leds := by omega
    simp [hi, this]
  · have hlt : i < s.cfg.leds := by omega
    rw [if_neg hi]
    rcases hw : (s.setLedValues i (wireVals s.cfg vals)).memWrite (regionStart s.cfg i) s.cfg.pixelSymbolSize
        (formatPixel s.cfg vals) with _ | s'
    · refine ⟨fun h => (nomatch h), fun ⟨_, h1, h2, _⟩ => absurd hw ?_⟩
      rw [(State.memWrite_eq_some (s := s.setLedValues i (wireVals s.cfg vals))).2 ⟨h1, h2, rfl⟩]
      exact Option.some_ne_none _
    · obtain ⟨h1, h2, rfl⟩ := State.memWrite_eq_some.1 hw
      simp only [Except.ok.injEq, hlt, h1, true_and]
      exact ⟨fun h => ⟨h2, h.symm⟩, fun h => h.2.symm⟩

/-- `set_led` is refused as `OUT_OF_RANGE` exactly past the strip (R85). -/
theorem State.setLed_eq_outOfRange {s : State} {i : Nat} {vals : ChannelValues} :
    s.setLed i vals = .error .outOfRange ↔ s.cfg.leds ≤ i := by
  unfold State.setLed
  by_cases hi : i ≥ s.cfg.leds
  · simp [hi]
  · rw [if_neg hi]
    split <;> simp <;> omega

/-! ## Commands -/

@[simp] theorem length_zeros : zeros.length = 32 := rfl

theorem length_padData {bs : List Byte} (h : bs.length ≤ 32) : (padData bs).length = 32 := by
  simp only [padData, List.length_append, List.length_replicate]
  omega

@[simp] theorem State.whenReady_of_ready {s : State} (w : Word) (body : Host.Outcome State Fault Refusal)
    (h : s.ready = true) : s.whenReady w body = body := by
  simp [State.whenReady, h]

@[simp] theorem State.whenReady_of_not_ready {s : State} (w : Word) (body : Host.Outcome State Fault Refusal)
    (h : s.ready = false) : s.whenReady w body = .next (s.raise w .notReady 0) := by
  simp [State.whenReady, h]

/-- A command that is no SET_BRIGHTNESS only answers (R77, R82, R106, R111), and with 32 data bytes where a ready block's
profile is valid (R68). -/
theorem exec_answers {i : Instr} (s : State) (h : ∀ index vals, i ≠ .setBrightness index vals) :
    ∃ code data, exec i s = .next (s.respond (encode i) code 0 data) ∧
      ((s.ready = true → s.cfg.profileValid = true) → data.length = 32) := by
  have key : ∀ w code data, (s.ready = true → s.cfg.profileValid = true → data.length = 32) →
      ∃ code' data', s.whenReady w (.next (s.respond w code 0 data)) = .next (s.respond w code' 0 data') ∧
        ((s.ready = true → s.cfg.profileValid = true) → data'.length = 32) := by
    intro w code data hd
    cases hr : s.ready with
    | false => exact ⟨.notReady, zeros, by simp [hr, State.raise], fun _ => rfl⟩
    | true => exact ⟨code, data, by simp [hr], fun hv => hd hr (hv rfl)⟩
  have hz : s.ready = true → s.cfg.profileValid = true → zeros.length = 32 := fun _ _ => rfl
  cases i with
  | setBrightness index vals => exact absurd rfl (h index vals)
  | nop ignored => exact key _ _ _ hz
  | encode value lo hi => exact key _ _ _ fun _ _ => length_padData (by simp)
  | format vals ignored =>
    refine key _ _ _ fun _ hv => length_padData ?_
    have := Config.channels_pos hv
    rw [length_formatPixel vals hv, Config.pixelSymbolSize_of_valid hv]
    omega
  | reserved4to7 op rest => exact key _ _ _ hz
  | reserved8toF op rest => exact key _ _ _ hz
  | illegalRsv4 op rsv rest => exact key _ _ _ hz
  | illegalRsv5 op rsv rest => exact key _ _ _ hz
  | illegalRsv6 op rsv rest => exact key _ _ _ hz
  | illegalRsv7 op rsv rest => exact key _ _ _ hz

/-- What SET_BRIGHTNESS can do (R87): answer an error, or write one region and start the frame. -/
theorem execSetBrightness_cases {index : BitVec 24} {vals : ChannelValues} {s t : State}
    (h : exec (.setBrightness index vals) s = .next t) :
    (s.ready = false ∧ t = s.raise (encode (.setBrightness index vals)) .notReady 0)
    ∨ (s.ready = true ∧ s.cfg.leds ≤ ledIndex index ∧ t = s.raise (encode (.setBrightness index vals)) .outOfRange 0)
    ∨ (s.ready = true ∧ ∃ s', s.setLed (ledIndex index) vals = .ok s' ∧ t = s'.startFrame) := by
  simp only [exec, execSetBrightness] at h
  cases hr : s.ready with
  | false =>
    rw [State.whenReady_of_not_ready _ _ hr] at h
    cases h
    exact .inl ⟨rfl, rfl⟩
  | true =>
    rw [State.whenReady_of_ready _ _ hr] at h
    rcases hs : s.setLed (ledIndex index) vals with e | s'
    · cases e with
      | outOfRange =>
        rw [hs] at h
        cases h
        exact .inr (.inl ⟨rfl, State.setLed_eq_outOfRange.1 hs, rfl⟩)
      | noRegion a => rw [hs] at h; cases h
    · rw [hs] at h
      cases h
      exact .inr (.inr ⟨rfl, s', rfl, rfl⟩)

/-! ## Steps -/

theorem State.acceptable_eq_some {s : State} {h : HostId} {w : Word} :
    s.acceptable h = some w ↔ s.phase = .idle ∧ s.outstandingOf h = none ∧ s.waitingOf h = some w := by
  unfold State.acceptable
  split_ifs with hc
  · simp [hc]
  · simp only [false_iff]
    tauto

/-- An acceptance happens exactly when reset is released, it is the next action, and it is enabled (R83). -/
theorem State.accepted_eq_some {s : State} {h : HostId} {w : Word} :
    s.accepted = some (h, w) ↔ s.resetAsserted = false ∧ s.nextAction = .accept h ∧ s.phase = .idle ∧
      s.outstandingOf h = none ∧ s.waitingOf h = some w := by
  unfold State.accepted
  cases hr : s.resetAsserted with
  | true => simp
  | false =>
    cases ha : s.nextAction <;> simp only [Bool.false_eq_true, if_false, reduceCtorEq, true_and, false_and]
    case accept h' =>
      simp only [Option.map_eq_some_iff, Prod.mk.injEq, Action.accept.injEq]
      constructor
      · rintro ⟨w', hw, rfl, rfl⟩
        exact ⟨rfl, State.acceptable_eq_some.1 hw⟩
      · rintro ⟨rfl, hw⟩
        exact ⟨w, State.acceptable_eq_some.2 hw, rfl, rfl⟩

/-- What a step can be: an accepted command's `exec`, an event under reset, or one step of another agent. -/
theorem step_cases {s t : State} (h : step s = .next t) :
    (∃ host w, s.accepted = some (host, w) ∧ exec (decodeWord w) (s.popAction.take host w) = .next t)
    ∨ (s.resetAsserted = true ∧ t = s.popAction.performInReset s.nextAction)
    ∨ (s.resetAsserted = false ∧ s.accepted = none ∧ s.popAction.perform s.nextAction = .next t) := by
  unfold step at h
  rcases ha : s.accepted with _ | ⟨host, w⟩
  · rw [ha] at h
    simp only [State.environmentStep] at h
    cases hr : s.resetAsserted with
    | true =>
      rw [hr, if_pos rfl] at h
      cases h
      exact .inr (.inl ⟨rfl, rfl⟩)
    | false =>
      rw [hr] at h
      exact .inr (.inr ⟨rfl, rfl, h⟩)
  · rw [ha] at h
    exact .inl ⟨host, w, rfl, h⟩

/-- The step of an agent that runs no command, outside reset. -/
theorem step_of_perform {s : State} (hr : s.resetAsserted = false) (ha : s.accepted = none) :
    step s = s.popAction.perform s.nextAction := by
  simp [step, ha, State.environmentStep, hr]

/-- The step under reset. -/
theorem step_in_reset {s : State} (hr : s.resetAsserted = true) :
    step s = .next (s.popAction.performInReset s.nextAction) := by
  have : s.accepted = none := by simp [State.accepted, hr]
  simp [step, this, State.environmentStep, hr]

/-- The step of an acceptance. -/
theorem step_of_accepted {s : State} {h : HostId} {w : Word} (ha : s.accepted = some (h, w)) :
    step s = exec (decodeWord w) (s.popAction.take h w) := by
  simp [step, ha]

/-- No acceptance happens where the next action is none. -/
theorem State.accepted_eq_none {s : State} (h : ∀ host, s.nextAction ≠ .accept host) : s.accepted = none := by
  rcases ha : s.accepted with _ | ⟨host, w⟩
  · rfl
  · exact absurd (State.accepted_eq_some.1 ha).2.1 (h host)

/-! ## The block's own choices -/

theorem State.nextAction_nil {s : State} (h : s.agenda = []) : s.nextAction = s.ownAction := by
  simp [State.nextAction, h]

theorem State.popAction_nil {s : State} (h : s.agenda = []) :
    s.popAction = { s with draws := s.draws + 1, delay := s.delayNext } := by
  simp [State.popAction, h]

/-- While something waits to be chosen, a step of the block's own uses up one period of the delay. -/
theorem State.delayLeft_popAction {s : State} {d : Nat} (ha : s.agenda = []) (hc : s.choosing = true)
    (hd : s.delayLeft = d + 1) : s.popAction.delay = some d := by
  simp [State.popAction_nil ha, State.delayNext, hc, hd]

theorem State.delayLeft_of_delay {s : State} {d : Nat} (h : s.delay = some d) : s.delayLeft = d := by
  simp [State.delayLeft, h]

/-- The block's own next action: an acceptance of a command that waits, in `Idle` with no delay left; else a period, which
holds the line only before bit 0 and only while a delay is left. -/
theorem State.ownAction_cases (s : State) :
    (∃ c ∈ s.waiting, s.phase = .idle ∧ s.delayLeft = 0 ∧ s.ownAction = .accept c.1)
    ∨ ∃ hold, s.ownAction = .period hold
        ∧ (hold = true → ∃ h, s.phase = .tx h 0 ∧ s.delayLeft ≠ 0)
        ∧ (∀ h, s.phase = .tx h 0 → hold = decide (0 < s.delayLeft))
        ∧ (s.phase = .idle → s.waiting ≠ [] → s.delayLeft ≠ 0) := by
  unfold State.ownAction
  cases hp : s.phase with
  | gap n o => exact .inr ⟨false, rfl, by simp, by simp, by simp⟩
  | tx h k =>
    cases k with
    | zero => exact .inr ⟨_, rfl, fun e => ⟨h, rfl, by simpa [Nat.pos_iff_ne_zero] using e⟩, fun _ _ => rfl, by simp⟩
    | succ k => exact .inr ⟨false, rfl, by simp, by simp, by simp⟩
  | idle =>
    cases hd : s.delayLeft with
    | succ d => exact .inr ⟨false, rfl, by simp, by simp, by simp⟩
    | zero =>
      cases hc : s.waiting[Config.arbitrate s.draws % s.waiting.length]? with
      | some c => exact .inl ⟨c, List.mem_of_getElem? hc, rfl, rfl, rfl⟩
      | none =>
        refine .inr ⟨false, rfl, by simp, by simp, fun _ hw => ?_⟩
        have := Nat.mod_lt (Config.arbitrate s.draws) (List.length_pos_iff.2 hw)
        simp at hc
        omega

@[simp] theorem State.popAction_cons {s : State} {a : Action} {rest : List Action} (h : s.agenda = a :: rest) :
    s.popAction = { s with agenda := rest } := by
  simp [State.popAction, h]

@[simp] theorem State.nextAction_cons {s : State} {a : Action} {rest : List Action} (h : s.agenda = a :: rest) :
    s.nextAction = a := by
  simp [State.nextAction, h]

/-! ## Histories -/

@[simp] theorem updateLast_append {α : Type} (f : α → α) (l : List α) (e : α) :
    updateLast f (l ++ [e]) = l ++ [f e] := by
  induction l with
  | nil => rfl
  | cons x l ih =>
    rcases l with _ | ⟨y, l⟩
    · rfl
    · simp only [List.cons_append, updateLast]
      exact congrArg _ ih

theorem length_updateLast {α : Type} (f : α → α) (l : List α) : (updateLast f l).length = l.length := by
  rcases List.eq_nil_or_concat l with rfl | ⟨l, e, rfl⟩
  · rfl
  · simp

theorem countP_updateLast {α : Type} {p : α → Bool} {f : α → α} (h : ∀ e, p (f e) = p e) (l : List α) :
    (updateLast f l).countP p = l.countP p := by
  rcases List.eq_nil_or_concat l with rfl | ⟨l, e, rfl⟩
  · rfl
  · simp [List.countP_append, List.countP_cons, h]

/-! ## Runs of the machine -/

/-- A run of any machine whose first step has a next state. -/
theorem run_succ_of_step (M : Host.Core) (k : Nat) {s u : M.State} (h : M.step s = .next u) : M.run (k + 1) s = M.run k u := by
  rw [Host.Core.run, h]

/-- The first steps of a run of any machine, when they have a next state, and the rest. -/
theorem run_add_of_run (M : Host.Core) {a : Nat} (b : Nat) {s u : M.State} (h : M.run a s = .next u) :
    M.run (a + b) s = M.run b u := by
  induction a generalizing s with
  | zero => cases h; rw [Nat.zero_add]
  | succ a ih =>
    rw [Nat.succ_add]
    rw [Host.Core.run] at h ⊢
    cases hs : M.step s with
    | next v => rw [hs] at h; exact ih h
    | fault r => rw [hs] at h; cases h
    | refused r => rw [hs] at h; cases h

/-- A run of the block: its first step. -/
theorem core_run_succ (k : Nat) {s u : State} (h : step s = .next u) : core.run (k + 1) s = core.run k u :=
  run_succ_of_step core k h

/-- A run of the block: its first `a` steps, then the rest. -/
theorem core_run_add {a : Nat} (b : Nat) {s u : State} (h : core.run a s = .next u) : core.run (a + b) s = core.run b u :=
  run_add_of_run core b h

end Sys2Proof.Machine
end

