-- ==== Sys2Proof/Laws/PerInstr.lean ====
section
/-! SUPPORT. The statement made of every constructor of `Instr`: the word of a well-formed command lies in its row of
spec/opcode_table.json, that is, masked with the row's mask it is the row's match. -/

open Sys2Proof

/-- The mask of a constructor's row of spec/opcode_table.json. -/
def Sys2Proof.Laws.TableRow.mask : Instr → Word
  | .nop _ => 0xFF
  | .encode _ _ _ => 0xFF
  | .format _ _ => 0xFF
  | .setBrightness _ _ => 0xFF
  | .reserved4to7 _ _ => 0xFC
  | .reserved8toF _ _ => 0xF8
  | .illegalRsv4 _ _ _ => 0x10
  | .illegalRsv5 _ _ _ => 0x20
  | .illegalRsv6 _ _ _ => 0x40
  | .illegalRsv7 _ _ _ => 0x80

/-- The match of a constructor's row of spec/opcode_table.json. -/
def Sys2Proof.Laws.TableRow.pattern : Instr → Word
  | .nop _ => 0x00
  | .encode _ _ _ => 0x01
  | .format _ _ => 0x02
  | .setBrightness _ _ => 0x03
  | .reserved4to7 _ _ => 0x04
  | .reserved8toF _ _ => 0x08
  | .illegalRsv4 _ _ _ => 0x10
  | .illegalRsv5 _ _ _ => 0x20
  | .illegalRsv6 _ _ _ => 0x40
  | .illegalRsv7 _ _ _ => 0x80

/-- A well-formed command's word is a word of its row. -/
def Sys2Proof.Laws.TableRow.Statement (i : Instr) : Prop :=
  WellFormed i = true → encode i &&& Sys2Proof.Laws.TableRow.mask i = Sys2Proof.Laws.TableRow.pattern i

/-- A mask within the low byte sees only the low byte of a word. -/
theorem Sys2Proof.Laws.TableRow.and_low_byte (rest : BitVec 56) (b m : Byte) :
    (rest ++ b : Word) &&& m.setWidth 64 = (b &&& m).setWidth 64 := by
  ext k hk
  simp only [BitVec.getElem_and, BitVec.getElem_append, BitVec.getElem_setWidth, BitVec.getLsbD_and]
  by_cases h : k < 8
  · simp [h, BitVec.getLsbD_eq_getElem]
  · have e : m.getLsbD k = false := BitVec.getLsbD_of_ge _ _ (by omega)
    simp [e]

/-- The row of a word by its low byte: enough to look at the low byte. -/
theorem Sys2Proof.Laws.TableRow.of_low_byte {i : Instr} {rest : BitVec 56} {b m : Byte} {p : Word} (he : encode i = rest ++ b)
    (hm : Sys2Proof.Laws.TableRow.mask i = m.setWidth 64)
    (hp : Sys2Proof.Laws.TableRow.pattern i = p) (h : (b &&& m).setWidth 64 = p) : encode i &&& Sys2Proof.Laws.TableRow.mask i = Sys2Proof.Laws.TableRow.pattern i := by
  rw [hp, he, hm, Sys2Proof.Laws.TableRow.and_low_byte, h]

theorem Sys2Proof.Laws.TableRow.nop (ignored : BitVec 56) : Sys2Proof.Laws.TableRow.Statement (.nop ignored) := fun _ =>
  Sys2Proof.Laws.TableRow.of_low_byte (rest := ignored) (b := headByte 0 0) (m := 0xFF) (p := 0x00) rfl rfl rfl (by decide)

theorem Sys2Proof.Laws.TableRow.encode (value : Byte) (lo hi : BitVec 24) : Sys2Proof.Laws.TableRow.Statement (.encode value lo hi) := fun _ =>
  Sys2Proof.Laws.TableRow.of_low_byte (rest := hi ++ value ++ lo) (b := headByte 1 0) (m := 0xFF) (p := 0x01) rfl rfl rfl (by decide)

theorem Sys2Proof.Laws.TableRow.format (vals : ChannelValues) (ignored : BitVec 24) : Sys2Proof.Laws.TableRow.Statement (.format vals ignored) := fun _ =>
  Sys2Proof.Laws.TableRow.of_low_byte (rest := encodeVals vals ++ ignored) (b := headByte 2 0) (m := 0xFF) (p := 0x02) rfl rfl rfl (by decide)

theorem Sys2Proof.Laws.TableRow.setBrightness (index : BitVec 24) (vals : ChannelValues) : Sys2Proof.Laws.TableRow.Statement (.setBrightness index vals) := fun _ =>
  Sys2Proof.Laws.TableRow.of_low_byte (rest := encodeVals vals ++ index) (b := headByte 3 0) (m := 0xFF) (p := 0x03) rfl rfl rfl (by decide)

theorem Sys2Proof.Laws.TableRow.reserved4to7 (op : BitVec 4) (rest : BitVec 56) : Sys2Proof.Laws.TableRow.Statement (.reserved4to7 op rest) := fun h =>
  Sys2Proof.Laws.TableRow.of_low_byte (b := headByte op 0) (m := 0xFC) (p := 0x04) rfl rfl rfl
    (by change decide (4 ≤ op.toNat ∧ op.toNat ≤ 7) = true at h; revert op; decide)

theorem Sys2Proof.Laws.TableRow.reserved8toF (op : BitVec 4) (rest : BitVec 56) : Sys2Proof.Laws.TableRow.Statement (.reserved8toF op rest) := fun h =>
  Sys2Proof.Laws.TableRow.of_low_byte (b := headByte op 0) (m := 0xF8) (p := 0x08) rfl rfl rfl
    (by change decide (8 ≤ op.toNat) = true at h; revert op; decide)

theorem Sys2Proof.Laws.TableRow.illegalRsv4 (op rsv : BitVec 4) (rest : BitVec 56) : Sys2Proof.Laws.TableRow.Statement (.illegalRsv4 op rsv rest) := fun h =>
  Sys2Proof.Laws.TableRow.of_low_byte (b := headByte op rsv) (m := 0x10) (p := 0x10) rfl rfl rfl
    (by change rsv.getLsbD 0 = true at h; revert op rsv; decide)

theorem Sys2Proof.Laws.TableRow.illegalRsv5 (op rsv : BitVec 4) (rest : BitVec 56) : Sys2Proof.Laws.TableRow.Statement (.illegalRsv5 op rsv rest) := fun h =>
  Sys2Proof.Laws.TableRow.of_low_byte (b := headByte op rsv) (m := 0x20) (p := 0x20) rfl rfl rfl
    (by change (!rsv.getLsbD 0 && rsv.getLsbD 1) = true at h; revert op rsv; decide)

theorem Sys2Proof.Laws.TableRow.illegalRsv6 (op rsv : BitVec 4) (rest : BitVec 56) : Sys2Proof.Laws.TableRow.Statement (.illegalRsv6 op rsv rest) := fun h =>
  Sys2Proof.Laws.TableRow.of_low_byte (b := headByte op rsv) (m := 0x40) (p := 0x40) rfl rfl rfl
    (by change (!rsv.getLsbD 0 && !rsv.getLsbD 1 && rsv.getLsbD 2) = true at h; revert op rsv; decide)

theorem Sys2Proof.Laws.TableRow.illegalRsv7 (op rsv : BitVec 4) (rest : BitVec 56) : Sys2Proof.Laws.TableRow.Statement (.illegalRsv7 op rsv rest) := fun h =>
  Sys2Proof.Laws.TableRow.of_low_byte (b := headByte op rsv) (m := 0x80) (p := 0x80) rfl rfl rfl
    (by change (!rsv.getLsbD 0 && !rsv.getLsbD 1 && !rsv.getLsbD 2 && rsv.getLsbD 3) = true at h; revert op rsv; decide)
end

