-- ==== Sys2Proof/Tests/Slice0.lean ====
section
/-! SUPPORT. Small tests, their expected results from spec/ (the vector is named at each), and for every obligation with
hypotheses a witness that meets them. -/

namespace Sys2Proof.Tests

open Sys2Proof Sys2Proof.Machine

/-! ## States and configurations the tests start from -/

/-- The start state of 95_test_vectors.md: calibration, three LEDs, the reset gap over. -/
def idle : State := { State.reset with phase := .idle }

/-- The four-channel test profile of V-FMT-10 and P5. -/
def fourConfig : Config :=
  { Config.calibration 2 64 ⟨1, Nat.le_refl 1⟩ with
    oneSymbol := 0xF8, channelsPerLed := 4, order := { slot0 := .g, slot1 := .r, slot2 := .b, slot3 := .w } }

/-- The start state with the four-channel profile. -/
def four : State := { State.powerOn fourConfig with phase := .idle }

/-- The calibration profile with both symbols equal (V-RST-3, P6): a configuration error. -/
def badConfig : Config := { Config.atReset with oneSymbol := 0xC0 }

/-- A block that is not ready. -/
def notReady : State := State.powerOn badConfig

/-- `r=255, g=0, b=0`. -/
def red : ChannelValues := { r := 255, g := 0, b := 0, w := 0 }

/-- `setb 1, r=255` (V-SB-2). -/
def setRed : Word := 0x000000FF00000103

/-- The state in which V-SB-2's frame is on the line, before bit 0. -/
def sending : State :=
  { idle with
    led := Memory.writeBytes 0 [] 3 [0, 255, 0]
    buf := Memory.writeBytes 0xC0 [] 24 (formatPixel idle.cfg red)
    phase := .tx 0 0
    outstanding := [(0, setRed)]
    frames := [.frame [] .inProgress] }

/-- The same in the gap after its whole frame. -/
def inGap (r : FrameResult) : State :=
  { sending with phase := .gap 1 (some { host := 0, result := r }), frames := [.frame sending.frameImage .complete] }

/-- `s` with `a` as the next action. -/
def withNext (s : State) (a : Action) : State := { s with agenda := [a] }

/-- The next state of an outcome. -/
def nextOf : Host.Outcome State Fault Refusal → Option State
  | .next s => some s
  | .fault _ => none
  | .refused _ => none

/-- The one response recorded in a state's history. -/
def answerOf (s : State) : Option (RespCode × Byte × List Byte) :=
  match s.responses with
  | [.answer _ _ resp] => some (resp.code, resp.detail, resp.data)
  | _ => none

/-- What a state that had answered nothing answers to a command word. -/
def answerTo (s : State) (w : Word) : Option (RespCode × Byte × List Byte) :=
  (nextOf (exec (decodeWord w) s)).bind answerOf

/-! ## WellFormed: an ill-formed term for each check -/

theorem test_wf_refuses_reserved4to7_low : WellFormed (.reserved4to7 3 0) = false := by decide
theorem test_wf_refuses_reserved4to7_high : WellFormed (.reserved4to7 8 0) = false := by decide
theorem test_wf_refuses_reserved8toF : WellFormed (.reserved8toF 7 0) = false := by decide
theorem test_wf_refuses_illegalRsv4 : WellFormed (.illegalRsv4 3 0xE 0) = false := by decide
theorem test_wf_refuses_illegalRsv5_low_bit : WellFormed (.illegalRsv5 3 0x3 0) = false := by decide
theorem test_wf_refuses_illegalRsv5 : WellFormed (.illegalRsv5 3 0xC 0) = false := by decide
theorem test_wf_refuses_illegalRsv6_low_bit : WellFormed (.illegalRsv6 3 0x6 0) = false := by decide
theorem test_wf_refuses_illegalRsv6 : WellFormed (.illegalRsv6 3 0x8 0) = false := by decide
theorem test_wf_refuses_illegalRsv7_low_bit : WellFormed (.illegalRsv7 3 0xC 0) = false := by decide
theorem test_wf_refuses_illegalRsv7 : WellFormed (.illegalRsv7 3 0 0) = false := by decide

/-! ## Decoding: one word for each constructor, written out from 30_encoding.md -/

/-- V-DEC-2: `w[63:8]` is ignored. -/
theorem test_decode_nop : decodeWord 0xFFFFFFFFFFFFFF00 = .nop 0xFFFFFFFFFFFFFF := by decide
/-- V-DEC-9. -/
theorem test_decode_encode : decodeWord 0x3322115AABCDEF01 = .encode 0x5A 0xABCDEF 0x332211 := by decide
/-- V-FMT-8. -/
theorem test_decode_format : decodeWord 0x7856341200000002 = .format { r := 0x12, g := 0x34, b := 0x56, w := 0x78 } 0 := by
  decide
/-- V-DEC-10. -/
theorem test_decode_setBrightness :
    decodeWord 0x0403020112345603 = .setBrightness 0x123456 { r := 1, g := 2, b := 3, w := 4 } := by decide
/-- V-DEC-5. -/
theorem test_decode_reserved4to7 : decodeWord 0x0000000000000004 = .reserved4to7 4 0 := by decide
/-- V-DEC-6. -/
theorem test_decode_reserved8toF : decodeWord 0x000000000000000F = .reserved8toF 0xF 0 := by decide
/-- V-DEC-4: every reserved bit set. -/
theorem test_decode_illegalRsv4 : decodeWord 0x00000000000000F0 = .illegalRsv4 0 0xF 0 := by decide
/-- R64 by bit 5: RSV = 2. -/
theorem test_decode_illegalRsv5 : decodeWord 0x0000000000000321 = .illegalRsv5 1 2 3 := by decide
/-- R64 by bit 6: RSV = 4. -/
theorem test_decode_illegalRsv6 : decodeWord 0x0000000000000042 = .illegalRsv6 2 4 0 := by decide
/-- R64 by bit 7: RSV = 8. -/
theorem test_decode_illegalRsv7 : decodeWord 0xFF00000000000083 = .illegalRsv7 3 8 0xFF000000000000 := by decide
/-- R41: the bytes of V-SB-2's word on a byte-wide channel, byte 0 first. -/
theorem test_decode_bytes :
    decodeBytes [0x03, 0x01, 0x00, 0x00, 0xFF, 0x00, 0x00, 0x00] = .ok (.setBrightness 1 red) := by rfl
/-- R58: eight bytes and no other number make a command. -/
theorem test_decode_seven_bytes :
    decodeBytes [0x03, 0x01, 0x00, 0x00, 0xFF, 0x00, 0x00] = .error (.notEightBytes 7) := by rfl
/-- S7: `setrgb 1, 255, 0, 0` assembles to P1's word. -/
theorem test_assemble_setrgb : assemble (.setrgb 1 255 0 0) = some (.command setRed) := by decide
/-- The table's numbering is R59's. -/
theorem test_table_word : decodeTableWord 8 3 = some (.setBrightness 0 { r := 0, g := 0, b := 0, w := 0 }) := by decide
/-- The very next step runs the word placed. -/
theorem test_fetch_word :
    (nextOf (step (State.reset.withFetchWord 8 1))).map (fun t => t.responses.length) = some 1 := by decide

/-! ## The commands -/

/-- V-DEC-1. -/
theorem test_nop : answerTo idle 0 = some (.ok, 0, List.replicate 32 0) := by decide
/-- P6 step 2. -/
theorem test_nop_not_ready : answerTo notReady 0 = some (.notReady, 0, List.replicate 32 0) := by decide
/-- V-ENC-5. -/
theorem test_encode : answerTo idle 0x000000A500000001
    = some (.ok, 0, [0xFC, 0xC0, 0xFC, 0xC0, 0xC0, 0xFC, 0xC0, 0xFC] ++ List.replicate 24 0) := by decide
/-- V-ENC-13: ignored fields nonzero. -/
theorem test_encode_ignores : answerTo idle 0x3322115AABCDEF01
    = some (.ok, 0, [0xC0, 0xFC, 0xC0, 0xFC, 0xFC, 0xC0, 0xFC, 0xC0] ++ List.replicate 24 0) := by decide
/-- V-FMT-3: green, red, blue order. -/
theorem test_format : answerTo idle 0x0003010200000002
    = some (.ok, 0, List.replicate 7 0xC0 ++ [0xFC] ++ List.replicate 6 0xC0 ++ [0xFC, 0xC0] ++ List.replicate 6 0xC0
        ++ [0xFC, 0xFC] ++ List.replicate 8 0) := by decide
/-- V-FMT-10: four channels, no padding. -/
theorem test_format_four : answerTo four 0x7856341200000002
    = some (.ok, 0, [0xC0, 0xC0, 0xF8, 0xF8, 0xC0, 0xF8, 0xC0, 0xC0] ++ [0xC0, 0xC0, 0xC0, 0xF8, 0xC0, 0xC0, 0xF8, 0xC0]
        ++ [0xC0, 0xF8, 0xC0, 0xF8, 0xC0, 0xF8, 0xF8, 0xC0] ++ [0xC0, 0xF8, 0xF8, 0xF8, 0xF8, 0xC0, 0xC0, 0xC0]) := by decide
/-- V-SB-2 and V-SB-12: the region of LED 1 and its values, and its neighbours' bytes. -/
theorem test_setBrightness_region : (nextOf (exec (decodeWord setRed) idle)).map
      (fun t => (t.memRead 24 24, t.memByte 23, t.memByte 48, t.ledVals 1))
    = some (some (List.replicate 8 0xC0 ++ List.replicate 8 0xFC ++ List.replicate 8 0xC0), some 0xC0, some 0xC0,
        [0, 255, 0]) := by decide
/-- V-SB-5: the index is NUM_LEDS. -/
theorem test_setBrightness_out_of_range :
    answerTo idle 0x0003020100000303 = some (.outOfRange, 0, List.replicate 32 0) := by decide
/-- V-DEC-5. -/
theorem test_reserved4to7 : answerTo idle 0x4 = some (.illegalCommand, 0, List.replicate 32 0) := by decide
/-- V-DEC-6. -/
theorem test_reserved8toF : answerTo idle 0xF = some (.illegalCommand, 0, List.replicate 32 0) := by decide
/-- V-DEC-7: the reserved bits win over the index out of range. -/
theorem test_illegalRsv4 : answerTo idle 0x313 = some (.illegalCommand, 0, List.replicate 32 0) := by decide
/-- V-DEC-8: `NOT_READY` wins over `ILLEGAL_COMMAND`. -/
theorem test_illegalRsv4_not_ready : answerTo notReady 0x10 = some (.notReady, 0, List.replicate 32 0) := by decide
/-- R64. -/
theorem test_illegalRsv5 : answerTo idle 0x20 = some (.illegalCommand, 0, List.replicate 32 0) := by decide
/-- R64. -/
theorem test_illegalRsv6 : answerTo idle 0x43 = some (.illegalCommand, 0, List.replicate 32 0) := by decide
/-- R64. -/
theorem test_illegalRsv7 : answerTo idle 0x80 = some (.illegalCommand, 0, List.replicate 32 0) := by decide

/-! ## Registers (95_test_vectors.md section 6) -/

/-- V-REG-1, V-REG-2, V-REG-3, V-REG-15. -/
theorem test_status : (State.reset.readReg 0x000 32, idle.readReg 0x000 32, sending.readReg 0x000 32, notReady.readReg 0x000 32)
    = (.value 3, .value 2, .value 3, .value 4) := by decide
/-- V-REG-16. -/
theorem test_status_allocation_failure :
    (State.powerOn (Config.calibration 3 71 ⟨1, Nat.le_refl 1⟩)).readReg 0x000 32 = .value 8 := by decide
/-- V-REG-4, V-REG-13. -/
theorem test_profile : (idle.readReg 0x004 32, four.readReg 0x004 32) = (.value 0x2138FCC0, .value 0xE148F8C0) := by decide
/-- V-REG-5 to V-REG-8, V-REG-14. -/
theorem test_registers : (idle.readReg 0x008 32, idle.readReg 0x00C 32, idle.readReg 0x010 32, idle.readReg 0x014 32,
    four.readReg 0x014 32) = (.value 3, .value 0x0061A800, .value 0x000C3500, .value 0x18, .value 0x20) := by decide
/-- V-REG-9 to V-REG-12. -/
theorem test_register_edges : (idle.readReg 0x018 32, idle.readReg 0xFFC 32, idle.readReg 0x002 32, idle.readReg 0x000 16,
    idle.readReg 0x1000 32) = (.value 0, .value 0, .busError, .busError, .busError) := by decide

/-! ## Serializer and reset -/

/-- V-SER-1: bits 256 and 261 of V-SB-2's frame are 1, bit 262 is 0. -/
theorem test_frame_bits : (sending.frameBit 256, sending.frameBit 261, sending.frameBit 262, sending.frameBit 575)
    = (some true, some true, some false, some false) := by decide
/-- R96: with two low periods of the start latency left the block holds the line low for one of them. -/
theorem test_own_latency : (nextOf (step { sending with delay := some 2 })).map (fun t => (t.dout, t.phase, t.delay))
    = some (false, .tx 0 0, some 1) := by decide
/-- R96 and V-SER-1: with none left it emits bit 0, a 1. -/
theorem test_own_start : (nextOf (step { sending with delay := some 0 })).map (fun t => (t.dout, t.phase, t.delay))
    = some (true, .tx 0 1, none) := by decide
/-- V-SER-7: a fault before bit 0. -/
theorem test_fault_before_bit_0 : (sending.transportFault 1).frames = [.frame [] .aborted]
    ∧ (sending.transportFault 1).phase = .gap 1 (some { host := 0, result := .transportError 1 }) := by decide
/-- V-SER-9: a second fault changes nothing. -/
theorem test_second_fault : (inGap (.transportError 0x5A)).transportFault 0x77 = inGap (.transportError 0x5A) := by rfl
/-- V-SER-8 and R100: the answer carries the fault's code. -/
theorem test_gap_end_error : (nextOf ((inGap (.transportError 2)).period false)).bind answerOf
    = some (.transportError, 2, List.replicate 32 0) := by rfl
/-- V-RST-1: after the one low period of the reset gap, `Idle` and no response. -/
theorem test_reset_gap : (nextOf (State.reset.period false)).map (fun t => (t.phase, t.responses, t.dout))
    = some (.idle, [], false) := by decide
/-- V-RST-3, V-RST-4, V-RST-5. -/
theorem test_configuration_errors :
    ([badConfig, { Config.atReset with bitsPerChannel := 7 }, { Config.atReset with channelsPerLed := 2 },
      { Config.atReset with channelsPerLed := 5 }, { Config.atReset with order := ⟨.g, .g, .b, .r⟩ },
      { Config.atReset with nativeBitRateHz := 400000 }, { badConfig with bufferCapacity := 71 }].map Config.initCheck)
    = List.replicate 7 .configurationError := by decide
/-- V-RST-6: 2^24 LEDs are the most. -/
theorem test_most_leds :
    ((Config.calibration 16777216 402653184 ⟨1, Nat.le_refl 1⟩).initCheck,
      (Config.calibration 16777217 402653208 ⟨1, Nat.le_refl 1⟩).initCheck) = (.noError, .allocationFailure) := by decide
/-- V-RST-7: reset mid-frame drops the command and aborts the frame. -/
theorem test_reset_mid_frame : (sending.assertReset.frames, sending.assertReset.responses, sending.assertReset.outstanding)
    = ([.frame [] .aborted, .reset], [.reset], []) := by decide
/-- R69: the numbers of the codes. -/
theorem test_response_codes : [RespCode.ok, .outOfRange, .transportError, .illegalCommand, .notReady].map RespCode.code
    = [0, 1, 2, 3, 4] := by decide

/-! ## Witnesses: states and operands that meet the hypotheses of each obligation -/

theorem wit_initOk_idle : idle.InitOk := ⟨by decide, by decide⟩
theorem wit_initOk_four : four.InitOk := ⟨by decide, by decide⟩
theorem wit_initOk_not_ready : notReady.InitOk := ⟨by decide, by decide⟩
theorem wit_initOk_sending : sending.InitOk := ⟨by decide, by decide⟩

theorem wit_reflects_idle : idle.ReflectsLed := by
  intro _; decide
theorem wit_reflects_sending : sending.ReflectsLed := by
  intro _; decide

theorem wit_mem_idle : idle.MemOk := ⟨by decide, by decide, by decide, by decide⟩

/-- `Inv` of the start state, with any agenda and any commands waiting. -/
theorem wit_inv_ports (agenda : List Action) (waiting : List (HostId × Word)) (hs : Sparse.Sorted waiting) :
    ({ idle with agenda := agenda, waiting := waiting } : State).Inv :=
  ⟨⟨wit_initOk_idle.1, wit_initOk_idle.2⟩, ⟨wit_mem_idle.1, wit_mem_idle.2, wit_mem_idle.3, wit_mem_idle.4⟩,
    ⟨List.Pairwise.nil, hs, fun _ _ => rfl, fun h => nomatch h⟩, ⟨rfl, rfl, fun _ => List.not_mem_nil⟩, wit_reflects_idle,
    fun _ _ _ h => absurd h List.not_mem_nil⟩

/-- `Inv` of the start state with an agenda, and with one command waiting. -/
theorem wit_inv_idle (agenda : List Action) (w : Word) :
    ({ idle with agenda := agenda } : State).Inv ∧ ({ idle with agenda := agenda, waiting := [(0, w)] } : State).Inv :=
  ⟨wit_inv_ports agenda [] List.Pairwise.nil, wit_inv_ports agenda [(0, w)] (List.pairwise_singleton _ _)⟩

/-- `Inv` of a state with a frame on the line. -/
theorem wit_inv_sending : sending.Inv := by
  refine ⟨wit_initOk_sending, ⟨by decide, by decide, by decide, by decide⟩, ⟨by decide, by decide, ?_, ?_⟩,
    ⟨rfl, by decide, ⟨1, red, rfl, by decide, by decide⟩, fun _ => rfl, [], rfl, fun _ => List.not_mem_nil⟩,
    wit_reflects_sending, fun _ _ _ h => absurd h List.not_mem_nil⟩
  · intro h hw; exact absurd rfl hw
  · intro h; cases h

theorem wit_DecodeAfterEncode : ([.nop 5, .encode 1 2 3, .format red 7, .setBrightness 1 red, .reserved4to7 4 1,
    .reserved4to7 7 1, .reserved8toF 8 1, .reserved8toF 15 1, .illegalRsv4 3 1 1, .illegalRsv5 3 2 1, .illegalRsv6 3 4 1,
    .illegalRsv7 3 8 1].all WellFormed) = true := by decide
theorem wit_ByteChannelLittleEndian : (7 < 8) ∧ ([] : List Byte).length ≠ 8 := by decide
theorem wit_DecodeSelectsInOrder : exec (decodeWord 0) notReady = .next (notReady.raise 0 .notReady 0)
    ∧ exec (decodeWord 3) idle = execSetBrightness 0 { r := 0, g := 0, b := 0, w := 0 } idle := ⟨rfl, rfl⟩
theorem wit_AssembledUpdateDecodes : 16777215 < 2 ^ 24 ∧ 255 ≤ 255 ∧ 2 ^ 24 ≤ 16777216
    ∧ (Role.g, 256) ∈ [(Role.r, 0), (Role.g, 256)] ∧ 255 < 256 := by decide
theorem wit_EncodeBitByBit : idle.cfg.profileValid = true ∧ 7 < 8 := by decide
theorem wit_SymbolRoundTrip : idle.cfg.zeroSymbol ≠ idle.cfg.oneSymbol
    ∧ (∀ b ∈ [0xC0, 0xFC, 0xC0, 0xFC, 0xC0, 0xFC, 0xC0, (0xFC : Byte)], b = idle.cfg.zeroSymbol ∨ b = idle.cfg.oneSymbol)
    ∧ ([0xC0] : List Byte).length ≠ 8 ∧ (1 : Byte) ≠ idle.cfg.zeroSymbol ∧ (1 : Byte) ≠ idle.cfg.oneSymbol := by decide
theorem wit_FormatLanes : idle.cfg.profileValid = true ∧ idle.cfg.channels = 3 ∧ four.cfg.profileValid = true
    ∧ four.cfg.channels = 4 ∧ 3 < four.cfg.channels := by decide
theorem wit_EncodeAnswers : idle.ready = true := by decide
theorem wit_FormatAnswers : (idle.InitOk ∧ idle.ready = true) ∧ four.InitOk ∧ four.ready = true :=
  ⟨⟨wit_initOk_idle, rfl⟩, wit_initOk_four, rfl⟩
/-- The first and the last LED; also for `SetBrightnessWritesOneRegion`, with the bytes on both sides of a region. -/
theorem wit_SetBrightnessStartsFrame : idle.InitOk ∧ idle.ready = true ∧ (0 : BitVec 24).toNat < idle.cfg.numLeds.toNat
    ∧ (2 : BitVec 24).toNat < idle.cfg.numLeds.toNat := ⟨wit_initOk_idle, by decide⟩
theorem wit_SetBrightnessWritesOneRegion : 23 < (1 : BitVec 24).toNat * idle.cfg.pixelSymbolSize
    ∧ ((1 : BitVec 24).toNat + 1) * idle.cfg.pixelSymbolSize ≤ 48 ∧ (1 : BitVec 24).toNat < idle.cfg.numLeds.toNat := by decide
theorem wit_SetBrightnessOutOfRange : idle.ready = true ∧ idle.cfg.numLeds.toNat ≤ (3 : BitVec 24).toNat
    ∧ idle.cfg.numLeds.toNat ≤ (0xFFFFFF : BitVec 24).toNat := by decide
theorem wit_IllegalWordsAnswered : idle.ready = true ∧ Instr.illegalRsv7 3 8 0 ∈ [Instr.reserved4to7 3 0, .reserved8toF 3 0,
    .illegalRsv4 3 8 0, .illegalRsv5 3 8 0, .illegalRsv6 3 8 0, .illegalRsv7 3 8 0] := by decide
theorem wit_IllegalWordsByBits : (0x10 : Word).extractLsb' 4 4 ≠ 0
    ∧ ((4 : Word).extractLsb' 4 4 = 0 ∧ 4 ≤ ((4 : Word).extractLsb' 0 4).toNat)
    ∧ ((15 : Word).extractLsb' 4 4 = 0 ∧ ((15 : Word).extractLsb' 0 4).toNat ≤ 15) := by decide
theorem wit_NotReadyAnswersEverything : notReady.ready = false := by decide
/-- V-SB-4: a white value that the three-channel profile ignores; an index out of range; a block not ready. -/
theorem wit_IgnoredFieldsIgnored :
    (∀ q ∈ idle.cfg.wireOrder, valOf { r := 1, g := 0, b := 0, w := 0xAB } q = valOf { r := 1, g := 0, b := 0, w := 0 } q)
    ∧ (0 : BitVec 24).toNat < idle.cfg.numLeds.toNat ∧ idle.cfg.numLeds.toNat ≤ (3 : BitVec 24).toNat
    ∧ notReady.ready = false := by decide
theorem wit_AnsweringCommandsFrame : (∀ index vals, Instr.nop 0 ≠ .setBrightness index vals)
    ∧ exec (.nop 0) idle = .next (idle.respond 0 .ok 0 zeros) := ⟨by (intro _ _ h; cases h), rfl⟩
theorem wit_SetBrightnessFrame : (nextOf (exec (.setBrightness 1 red) idle)).isSome = true
    ∧ (nextOf (exec (.setBrightness 3 red) idle)).isSome = true := by decide

/-- An acceptance that is enabled. -/
theorem wit_StepRunsDecodedCommand : ({ withNext idle (.accept 0) with waiting := [(0, setRed)] } : State).Turn (.accept 0)
    ∧ idle.phase = .idle ∧ idle.outstandingOf 0 = none
    ∧ ({ withNext idle (.accept 0) with waiting := [(0, setRed)] } : State).waitingOf 0 = some setRed
    ∧ WellFormed (.setBrightness 1 red) = true ∧ setRed = encode (.setBrightness 1 red) :=
  ⟨⟨rfl, rfl⟩, by decide⟩
theorem wit_BusyEngineStalls : (withNext sending (.accept 1)).Turn (.accept 1) ∧ (withNext sending (.accept 1)).phase ≠ .idle :=
  ⟨⟨rfl, rfl⟩, by decide⟩
/-- A host that may offer, one whose command is outstanding, and one whose command waits. -/
theorem wit_OfferedCommandWaits : (withNext sending (.offer 1 0)).Turn (.offer 1 0)
    ∧ (withNext sending (.offer 1 0)).waitingOf 1 = none ∧ (withNext sending (.offer 1 0)).outstandingOf 1 = none
    ∧ (withNext sending (.offer 0 0)).Turn (.offer 0 0) ∧ (withNext sending (.offer 0 0)).outstandingOf 0 ≠ none
    ∧ (withNext { idle with waiting := [(0, setRed)] } (.offer 0 0)).Turn (.offer 0 0)
    ∧ (withNext { idle with waiting := [(0, setRed)] } (.offer 0 0)).waitingOf 0 ≠ none :=
  ⟨⟨rfl, rfl⟩, by decide, by decide, ⟨rfl, rfl⟩, by decide, ⟨rfl, rfl⟩, by decide⟩
theorem wit_OwnActionIsEnabled : ({ idle with waiting := [(0, 0)] } : State).PortsOk
    ∧ ({ idle with waiting := [(0, 0)] } : State).agenda = [] := ⟨(wit_inv_idle [] 0).2.ports, rfl⟩
theorem wit_BufferHeldWhileBusy : (withNext sending (.period false)).resetAsserted = false
    ∧ (withNext sending (.period false)).phase ≠ .idle ∧ (withNext sending (.period false)).nextAction ≠ .assertReset
    ∧ (nextOf (step (withNext sending (.period false)))).isSome = true := by decide
theorem wit_OneFramePerUpdate :
    ({ withNext idle (.accept 0) with waiting := [(0, setRed)] } : State).accepted = some (0, setRed)
    ∧ startsFrame idle.cfg setRed = true
    ∧ (nextOf (step { withNext idle (.accept 0) with waiting := [(0, setRed)] })).isSome = true := by decide
theorem wit_ResponseEndsCommand : ({ idle with agenda := [.accept 0], waiting := [(0, 0)] } : State).Inv
    ∧ (nextOf (step { idle with agenda := [.accept 0], waiting := [(0, 0)] })).isSome = true :=
  ⟨(wit_inv_idle _ 0).2, by decide⟩
/-- The first bit, a bit from which on no period is held, and the last. -/
theorem wit_FrameBitEmitted : (withNext sending (.period false)).Turn (.period false) ∧ sending.phase = .tx 0 0
    ∧ sending.ready = true ∧ 0 < sending.cfg.frameBits
    ∧ (withNext { sending with phase := .tx 0 575 } (.period true)).Turn (.period true) ∧ 575 < sending.cfg.frameBits
    ∧ ¬ 575 + 1 < sending.cfg.frameBits := ⟨⟨rfl, rfl⟩, rfl, rfl, by decide, ⟨rfl, rfl⟩, by decide, by decide⟩
theorem wit_StartLatencyIsLow : (withNext sending (.period true)).Turn (.period true) ∧ sending.phase = .tx 0 0
    ∧ ({ sending with phase := .tx 0 1 } : State).phase = .tx 0 (0 + 1) := ⟨⟨rfl, rfl⟩, rfl, rfl⟩
theorem wit_GapPeriod :
    ((withNext { idle with phase := .gap 2 none } (.period false)).Turn (.period false) ∧ 1 < 2)
    ∧ ((withNext State.reset (.period false)).Turn (.period false) ∧ State.reset.phase = .gap 1 none)
    ∧ ((withNext (inGap .ok) (.period false)).Turn (.period false)
      ∧ (inGap .ok).phase = .gap 1 (some { host := 0, result := .ok }) ∧ (inGap .ok).outstandingOf 0 = some setRed)
    ∧ ((withNext (inGap (.transportError 2)) (.period false)).Turn (.period false)
      ∧ (inGap (.transportError 2)).phase = .gap 1 (some { host := 0, result := .transportError 2 })
      ∧ (inGap (.transportError 2)).outstandingOf 0 = some setRed) :=
  ⟨⟨⟨rfl, rfl⟩, by decide⟩, ⟨⟨rfl, rfl⟩, by decide⟩, ⟨⟨rfl, rfl⟩, rfl, rfl⟩, ⟨rfl, rfl⟩, rfl, rfl⟩
theorem wit_LineLowOutsideFrames : (withNext idle (.period false)).Turn (.period false)
    ∧ (∀ h k, (withNext idle (.period false)).phase = .tx h k → k = 0 ∧ false = true)
    ∧ (nextOf (step (withNext idle (.period false)))).isSome = true
    ∧ (∀ hold, (withNext sending .assertReset).nextAction ≠ .period hold)
    ∧ (nextOf (step (withNext sending .assertReset))).isSome = true :=
  ⟨⟨rfl, rfl⟩, by (intro h k e; cases e), by decide, by (intro _ e; cases e), by decide⟩
theorem wit_TransportFaultEffect : ((withNext sending (.fault 1)).Turn (.fault 1) ∧ sending.phase = .tx 0 0)
    ∧ ((withNext (inGap .ok) (.fault 2)).Turn (.fault 2) ∧ (inGap .ok).phase = .gap 1 (some { host := 0, result := .ok }))
    ∧ ((withNext State.reset (.fault 3)).Turn (.fault 3) ∧ (∀ h k, State.reset.phase ≠ .tx h k)
      ∧ ∀ n h, State.reset.phase ≠ .gap n (some { host := h, result := .ok }))
    ∧ (withNext State.reset (.period false)).Turn (.period false) ∧ (nextOf (step (withNext State.reset (.period false)))).isSome = true :=
  ⟨⟨⟨rfl, rfl⟩, rfl⟩, ⟨⟨rfl, rfl⟩, rfl⟩,
    ⟨⟨rfl, rfl⟩, by (intro h k e; rw [show State.reset.phase = .gap 1 none by decide] at e; cases e),
      by (intro n h e; rw [show State.reset.phase = .gap 1 none by decide] at e; cases e)⟩, ⟨rfl, rfl⟩, by decide⟩

/-- `sending` with the periods of its whole frame as the agenda, two of them held before it. -/
def sendAll : State :=
  { sending with agenda := List.replicate 2 (Action.period true) ++ (List.replicate sending.cfg.frameBits (Action.period false) ++ []) }
theorem wit_WholeFrameTransmitted : sendAll.resetAsserted = false ∧ sendAll.ready = true ∧ 0 < sendAll.cfg.frameBits
    ∧ sendAll.phase = .tx 0 0 ∧ sendAll.frames = [] ++ [.frame [] .inProgress]
    ∧ sendAll.agenda = List.replicate 2 (Action.period true) ++ (List.replicate sendAll.cfg.frameBits (Action.period false) ++ []) :=
  ⟨rfl, rfl, by decide, rfl, rfl, by rw [show sendAll.cfg = sending.cfg from rfl, sendAll]⟩
theorem wit_WholeGapRuns : (withNext State.reset (.period false)).resetAsserted = false
    ∧ (withNext State.reset (.period false)).agenda = List.replicate 1 (Action.period false) ++ [] ∧ State.reset.phase = .gap 1 none
    ∧ ({ idle with phase := .gap 3 none, agenda := List.replicate 3 (Action.period false) } : State).agenda
        = List.replicate 3 (Action.period false) ++ []
    ∧ (inGap .ok).phase = .gap 1 (some { host := 0, result := .ok }) ∧ (inGap .ok).outstandingOf 0 = some setRed :=
  ⟨rfl, rfl, by decide, rfl, rfl, rfl⟩

/-- The start state with V-SB-2's command waiting and the periods of its frame and gap as the agenda. -/
def updateAll : State :=
  { idle with
    waiting := [(0, setRed)]
    agenda := Action.accept 0 :: (List.replicate 0 (Action.period true)
      ++ (List.replicate (idle.cfg.frameBits + idle.cfg.latch) (Action.period false) ++ [])) }
theorem wit_UpdateRunsToOk : updateAll.Inv ∧ updateAll.resetAsserted = false ∧ updateAll.ready = true ∧ updateAll.phase = .idle
    ∧ updateAll.waitingOf 0 = some (encode (.setBrightness 1 red)) ∧ (1 : BitVec 24).toNat < updateAll.cfg.numLeds.toNat
    ∧ updateAll.agenda = Action.accept 0 :: (List.replicate 0 (Action.period true)
      ++ (List.replicate (updateAll.cfg.frameBits + updateAll.cfg.latch) (Action.period false) ++ [])) :=
  ⟨(wit_inv_idle _ setRed).2, rfl, rfl, rfl, by decide, by decide, by rw [show updateAll.cfg = idle.cfg from rfl, updateAll]⟩
/-- V-SER-6's fault, after `k` bits. -/
def abortAt (k : Nat) : State :=
  { idle with
    waiting := [(0, setRed)]
    agenda := Action.accept 0 :: (List.replicate 1 (Action.period true) ++ (List.replicate k (Action.period false)
      ++ (Action.fault 0x5A :: (List.replicate idle.cfg.latch (Action.period false) ++ [])))) }
/-- Before bit 0, after 100 bits (V-SER-6), before the last bit. -/
theorem wit_AbortedUpdateRunsToError (k : Nat) : (abortAt k).Inv ∧ (abortAt k).resetAsserted = false
    ∧ (abortAt k).ready = true ∧ (abortAt k).phase = .idle ∧ (abortAt k).waitingOf 0 = some (encode (.setBrightness 1 red))
    ∧ (1 : BitVec 24).toNat < (abortAt k).cfg.numLeds.toNat
    ∧ (0 < (abortAt 0).cfg.frameBits ∧ 100 < (abortAt 100).cfg.frameBits ∧ 575 < (abortAt 575).cfg.frameBits)
    ∧ (abortAt k).agenda = Action.accept 0 :: (List.replicate 1 (Action.period true)
      ++ (List.replicate k (Action.period false)
      ++ (Action.fault 0x5A :: (List.replicate (abortAt k).cfg.latch (Action.period false) ++ [])))) :=
  ⟨(wit_inv_idle _ setRed).2, rfl, rfl, rfl, rfl, (by decide : (1 : BitVec 24).toNat < idle.cfg.numLeds.toNat), by decide,
    by rw [show (abortAt k).cfg = idle.cfg from rfl, abortAt]⟩
/-- P2's steps 2 and 3, by one host. -/
def updateTwice : State :=
  { idle with
    agenda := Action.offer 0 (encode (.setBrightness 1 red)) :: Action.accept 0 :: (List.replicate 0 (Action.period true)
      ++ (List.replicate (idle.cfg.frameBits + idle.cfg.latch) (Action.period false)
      ++ Action.offer 0 (encode (.setBrightness 1 red)) :: Action.accept 0 :: (List.replicate 3 (Action.period true)
      ++ (List.replicate (idle.cfg.frameBits + idle.cfg.latch) (Action.period false) ++ [])))) }
theorem wit_RepeatedUpdateSameFrame : updateTwice.Inv ∧ updateTwice.resetAsserted = false ∧ updateTwice.ready = true
    ∧ updateTwice.phase = .idle ∧ updateTwice.waitingOf 0 = none ∧ (1 : BitVec 24).toNat < updateTwice.cfg.numLeds.toNat
    ∧ updateTwice.agenda = Action.offer 0 (encode (.setBrightness 1 red)) :: Action.accept 0 :: (List.replicate 0 (Action.period true)
      ++ (List.replicate (updateTwice.cfg.frameBits + updateTwice.cfg.latch) (Action.period false)
      ++ Action.offer 0 (encode (.setBrightness 1 red)) :: Action.accept 0 :: (List.replicate 3 (Action.period true)
      ++ (List.replicate (updateTwice.cfg.frameBits + updateTwice.cfg.latch) (Action.period false) ++ [])))) :=
  ⟨(wit_inv_idle _ 0).1, rfl, rfl, rfl, rfl, by decide, by rw [show updateTwice.cfg = idle.cfg from rfl, updateTwice]⟩

/-- For `InitCheckInOrder` and `ResetReleaseSetsState`: a release while reset is asserted. -/
theorem wit_ResetReleaseSetsState : (withNext idle.assertReset (.releaseReset fourConfig)).resetAsserted = true
    ∧ (withNext idle.assertReset (.releaseReset fourConfig)).nextAction = .releaseReset fourConfig := ⟨rfl, rfl⟩
/-- Reset while a frame is on the line, and while none is. -/
theorem wit_ResetAssertDropsCommands : (withNext sending .assertReset).Turn .assertReset ∧ sending.phase = .tx 0 0
    ∧ sending.frames = [] ++ [.frame [] .inProgress] ∧ (withNext idle .assertReset).Turn .assertReset
    ∧ ∀ h k, idle.phase ≠ .tx h k := ⟨⟨rfl, rfl⟩, rfl, rfl, ⟨rfl, rfl⟩, by (intro h k e; cases e)⟩
theorem wit_NoStepWhileReset : (withNext idle.assertReset (.offer 0 0)).resetAsserted = true
    ∧ ∀ c, (withNext idle.assertReset (.offer 0 0)).nextAction ≠ .releaseReset c := ⟨rfl, by (intro c e; cases e)⟩
/-- For the register statements: a read turn, a step that is no release, the calibration profile, the reserved offsets'
bounds. -/
theorem wit_registers : (withNext sending (.read 1 0x000 32)).Turn (.read 1 0x000 32)
    ∧ (∀ c, (withNext sending (.read 1 0x000 32)).nextAction ≠ .releaseReset c)
    ∧ (nextOf (step (withNext sending (.read 1 0x000 32)))).isSome = true
    ∧ idle.cfg = Config.calibration 3 72 ⟨1, Nat.le_refl 1⟩
    ∧ (∃ q, idle.cfg.order.toList[0]? = some q) ∧ (∃ q, idle.cfg.order.toList[3]? = some q)
    ∧ (0x018 ≤ 0x018 ∧ 0x018 ≤ 0xFFC ∧ 0x018 % 4 = 0) ∧ 0x018 ≤ 0xFFC ∧ 0xFFC ≤ 0xFFC ∧ 0xFFC % 4 = 0 :=
  ⟨⟨rfl, rfl⟩, by (intro c e; cases e), by decide, rfl, ⟨_, rfl⟩, ⟨_, rfl⟩, by decide⟩
theorem wit_BusErrorReads : (withNext idle (.read 0 0 16)).Turn (.read 0 0 16) ∧ (16 ≠ 32 ∨ 0 % 4 ≠ 0 ∨ 0 > 0xFFC)
    ∧ (32 ≠ 32 ∨ 2 % 4 ≠ 0 ∨ 2 > 0xFFC) ∧ (32 ≠ 32 ∨ 0x1000 % 4 ≠ 0 ∨ 0x1000 > 0xFFC) := ⟨⟨rfl, rfl⟩, by decide⟩
theorem wit_ReadsHaveNoSideEffect : (withNext notReady (.read 0 0x014 32)).Turn (.read 0 0x014 32) := ⟨rfl, rfl⟩

/-- For `StepKeepsInv`, `StepNeverStops` and `StepKeepsMemoryCanonical`. -/
theorem wit_StepKeepsInv : (∃ w, ({ idle with agenda := [.accept 0], waiting := [(0, w)] } : State).Inv) ∧ sending.Inv
    ∧ (nextOf (step (withNext sending (.period false)))).isSome = true
    ∧ Memory.wf sending.cfg.zeroSymbol sending.buf ∧ Memory.wf 0 sending.led :=
  ⟨⟨setRed, (wit_inv_idle _ setRed).2⟩, wit_inv_sending, by decide, by decide, by decide⟩
theorem wit_BufferReflectsLeds : sending.InitOk ∧ sending.ReflectsLed ∧ sending.ready = true
    ∧ 2 < sending.cfg.numLeds.toNat ∧ 2 < sending.cfg.channelsPerLed.toNat := ⟨wit_initOk_sending, wit_reflects_sending, by decide⟩

/-- The agenda says nothing; it holds two periods; a later bit, with a hold drawn and the bit after it the last. -/
theorem wit_StartLatencyIsFinite : (sending.resetAsserted = false ∧ sending.ready = true ∧ 0 < sending.cfg.frameBits
      ∧ sending.phase = .tx 0 0 ∧ sending.agenda = [])
    ∧ ({ sending with agenda := List.replicate 2 (Action.period true) ++ Action.period false :: [] } : State).agenda
        = List.replicate 2 (Action.period true) ++ Action.period false :: []
    ∧ (withNext { sending with phase := .tx 0 574 } (.period true)).Turn (.period true) ∧ 573 + 1 < sending.cfg.frameBits
    ∧ ({ sending with phase := .tx 0 574 } : State).agenda = [] :=
  ⟨by decide, rfl, ⟨rfl, rfl⟩, by decide, rfl⟩
/-- A command that waits in `Idle`, with nothing on the agenda. -/
theorem wit_WaitingCommandIsAccepted : ({ idle with agenda := [], waiting := [(0, setRed)] } : State).Inv
    ∧ ({ idle with agenda := [], waiting := [(0, setRed)] } : State).NoResetComes
    ∧ ({ idle with agenda := [], waiting := [(0, setRed)] } : State).waitingOf 0 = some setRed ∧ idle.phase = .idle
    ∧ (nextOf (step (withNext { idle with waiting := [(0, setRed)] } (.period false)))).isSome = true
    ∧ (withNext { idle with waiting := [(0, setRed)] } (.period false)).accepted ≠ some (0, setRed) :=
  ⟨(wit_inv_idle [] setRed).2, ⟨rfl, List.not_mem_nil⟩, rfl, rfl, by decide, by decide⟩
/-- A command that is outstanding, its frame on the line. -/
theorem wit_EveryCommandCompletes : sending.Inv ∧ sending.NoResetComes ∧ sending.outstandingOf 0 = some setRed :=
  ⟨wit_inv_sending, ⟨rfl, List.not_mem_nil⟩, rfl⟩
/-- Two hosts with the same command waiting. -/
def bothWait : State :=
  { idle with
    waiting := [(0, setRed), (1, setRed)]
    agenda := Action.accept 0 :: (List.replicate 0 (Action.period true)
      ++ (List.replicate (idle.cfg.frameBits + idle.cfg.latch) (Action.period false)
      ++ Action.accept 1 :: (List.replicate 3 (Action.period true)
      ++ (List.replicate (idle.cfg.frameBits + idle.cfg.latch) (Action.period false) ++ [])))) }
theorem wit_WaitingRepeatSameFrame : bothWait.Inv ∧ bothWait.resetAsserted = false ∧ bothWait.ready = true
    ∧ bothWait.phase = .idle ∧ 0 ≠ 1 ∧ bothWait.waitingOf 0 = some (encode (.setBrightness 1 red))
    ∧ bothWait.waitingOf 1 = some (encode (.setBrightness 1 red)) ∧ (1 : BitVec 24).toNat < bothWait.cfg.numLeds.toNat
    ∧ bothWait.agenda = Action.accept 0 :: (List.replicate 0 (Action.period true)
      ++ (List.replicate (bothWait.cfg.frameBits + bothWait.cfg.latch) (Action.period false)
      ++ Action.accept 1 :: (List.replicate 3 (Action.period true)
      ++ (List.replicate (bothWait.cfg.frameBits + bothWait.cfg.latch) (Action.period false) ++ [])))) :=
  ⟨wit_inv_ports _ _ (by decide), rfl, rfl, rfl, by decide, by decide, by decide, by decide,
    by rw [show bothWait.cfg = idle.cfg from rfl, bothWait]⟩

end Sys2Proof.Tests
end

section
/-! # The strip part of the state, and what a step does to it -/

namespace Sys2Proof.Machine

/-- The configuration, the outcome of the initialisation check and the two memories of `t` are those of `s`. -/
structure State.SameStrip (s t : State) : Prop where
  cfg_eq : t.cfg = s.cfg
  ready_eq : t.ready = s.ready
  initErr_eq : t.initErr = s.initErr
  buf_eq : t.buf = s.buf
  led_eq : t.led = s.led

theorem State.SameStrip.refl (s : State) : s.SameStrip s := ⟨rfl, rfl, rfl, rfl, rfl⟩

theorem State.SameStrip.trans {s t u : State} (h : s.SameStrip t) (h' : t.SameStrip u) : s.SameStrip u :=
  ⟨h'.cfg_eq.trans h.cfg_eq, h'.ready_eq.trans h.ready_eq, h'.initErr_eq.trans h.initErr_eq,
    h'.buf_eq.trans h.buf_eq, h'.led_eq.trans h.led_eq⟩

theorem State.SameStrip.bufSize_eq {s t : State} (h : s.SameStrip t) : t.bufSize = s.bufSize := by
  simp [State.bufSize, h.cfg_eq, h.ready_eq]

/-! ## The operations that leave the strip alone -/

theorem State.sameStrip_popAction (s : State) : s.SameStrip s.popAction := by constructor <;> simp

theorem State.sameStrip_take (s : State) (h : HostId) (w : Word) : s.SameStrip (s.take h w) := ⟨rfl, rfl, rfl, rfl, rfl⟩

theorem State.sameStrip_respond (s : State) (w : Word) (code : RespCode) (detail : Byte) (data : List Byte) :
    s.SameStrip (s.respond w code detail data) := ⟨rfl, rfl, rfl, rfl, rfl⟩

theorem State.sameStrip_startFrame (s : State) : s.SameStrip s.startFrame := ⟨rfl, rfl, rfl, rfl, rfl⟩

theorem State.sameStrip_offer (s : State) (h : HostId) (w : Word) : s.SameStrip (s.offer h w) := by
  unfold State.offer
  split_ifs
  · exact ⟨rfl, rfl, rfl, rfl, rfl⟩
  · exact .refl s

theorem State.sameStrip_transportFault (s : State) (c : Byte) : s.SameStrip (s.transportFault c) := by
  unfold State.transportFault
  split <;> exact ⟨rfl, rfl, rfl, rfl, rfl⟩

theorem State.sameStrip_assertReset (s : State) : s.SameStrip s.assertReset := by
  have abort : s.SameStrip s.abortFrame := by
    unfold State.abortFrame
    split <;> exact ⟨rfl, rfl, rfl, rfl, rfl⟩
  exact ⟨abort.cfg_eq, abort.ready_eq, abort.initErr_eq, abort.buf_eq, abort.led_eq⟩

theorem State.sameStrip_emitBit (s : State) (h : HostId) (k : Nat) (b : Bool) : s.SameStrip (s.emitBit h k b) := by
  unfold State.emitBit
  split_ifs <;> exact ⟨rfl, rfl, rfl, rfl, rfl⟩

theorem State.sameStrip_txPeriod {s t : State} {h : HostId} {k : Nat} {hold : Bool}
    (ht : s.txPeriod h k hold = .next t) : s.SameStrip t := by
  unfold State.txPeriod at ht
  split_ifs at ht with hheld
  · cases ht
    exact ⟨rfl, rfl, rfl, rfl, rfl⟩
  · cases hbit : s.frameBit k with
    | none => rw [hbit] at ht; cases ht
    | some b =>
      rw [hbit] at ht
      cases ht
      exact s.sameStrip_emitBit h k b

theorem State.sameStrip_gapEnd {s t : State} {owner : Option GapOwner} (ht : s.gapEnd owner = .next t) : s.SameStrip t := by
  cases owner with
  | none =>
    cases ht
    exact ⟨rfl, rfl, rfl, rfl, rfl⟩
  | some o =>
    simp only [State.gapEnd] at ht
    cases hw : s.outstandingOf o.host with
    | none => rw [hw] at ht; cases ht
    | some w =>
      rw [hw] at ht
      cases ht
      exact ⟨rfl, rfl, rfl, rfl, rfl⟩

theorem State.sameStrip_gapPeriod {s t : State} {n : Nat} {owner : Option GapOwner}
    (ht : s.gapPeriod n owner = .next t) : s.SameStrip t := by
  have low : s.SameStrip s.lowPeriod := ⟨rfl, rfl, rfl, rfl, rfl⟩
  unfold State.gapPeriod at ht
  split_ifs at ht
  · cases ht
    exact ⟨rfl, rfl, rfl, rfl, rfl⟩
  · exact low.trans (State.sameStrip_gapEnd ht)

theorem State.sameStrip_period {s t : State} {hold : Bool} (ht : s.period hold = .next t) : s.SameStrip t := by
  unfold State.period at ht
  cases hp : s.phase with
  | idle =>
    rw [hp] at ht
    cases ht
    exact ⟨rfl, rfl, rfl, rfl, rfl⟩
  | tx h k => rw [hp] at ht; exact State.sameStrip_txPeriod ht
  | gap n owner => rw [hp] at ht; exact State.sameStrip_gapPeriod ht

/-- Outside an acceptance and a reset release no agent's step changes the strip. -/
theorem State.sameStrip_perform {s t : State} {a : Action} (ht : s.perform a = .next t) : s.SameStrip t := by
  cases a with
  | period hold => exact State.sameStrip_period ht
  | offer h w => cases ht; exact s.sameStrip_offer h w
  | fault c => cases ht; exact s.sameStrip_transportFault c
  | assertReset => cases ht; exact s.sameStrip_assertReset
  | read h off width => cases ht; exact ⟨rfl, rfl, rfl, rfl, rfl⟩
  | accept h => cases ht; exact .refl s
  | releaseReset c => cases ht; exact .refl s

theorem State.sameStrip_performInReset (s : State) {a : Action} (ha : ∀ c, a ≠ .releaseReset c) :
    s.SameStrip (s.performInReset a) := by
  cases a with
  | releaseReset c => exact absurd rfl (ha c)
  | _ => exact .refl s

/-! ## The region update and the step -/

/-- `set_led` reads nothing but the strip: from a state with the same one it writes the same. -/
theorem State.SameStrip.setLed {s s' t' : State} (hs : s.SameStrip s') {i : Nat} {vals : ChannelValues}
    (h : s'.setLed i vals = .ok t') : ∃ t, s.setLed i vals = .ok t ∧ t.SameStrip t' := by
  obtain ⟨hi, hlen, hin, rfl⟩ := State.setLed_eq_ok.1 h
  rw [hs.cfg_eq] at hi hlen hin
  rw [hs.bufSize_eq] at hin
  refine ⟨_, State.setLed_eq_ok.2 ⟨hi, hlen, hin, rfl⟩, hs.cfg_eq, hs.ready_eq, hs.initErr_eq, ?_, ?_⟩
  · simp only [hs.cfg_eq, hs.buf_eq]
  · simp only [hs.cfg_eq, hs.led_eq]

/-- What a command can do to the strip: nothing, or the region update of R85. -/
theorem exec_strip_cases {i : Instr} {s t : State} (h : exec i s = .next t) :
    s.SameStrip t ∨ ∃ index vals u, s.setLed index vals = .ok u ∧ u.SameStrip t := by
  by_cases hi : ∃ index vals, i = .setBrightness index vals
  · obtain ⟨index, vals, rfl⟩ := hi
    rcases execSetBrightness_cases h with ⟨_, rfl⟩ | ⟨_, _, rfl⟩ | ⟨_, u, hu, rfl⟩
    · exact .inl (s.sameStrip_respond _ _ _ _)
    · exact .inl (s.sameStrip_respond _ _ _ _)
    · exact .inr ⟨_, _, u, hu, u.sameStrip_startFrame⟩
  · obtain ⟨code, data, he, _⟩ := exec_answers (i := i) s fun index vals e => hi ⟨index, vals, e⟩
    cases he.symm.trans h
    exact .inl (s.sameStrip_respond _ _ _ _)

/-- What a step can do to the strip: nothing, a reset release, or the region update of R85. -/
theorem step_strip_cases {s t : State} (h : step s = .next t) :
    s.SameStrip t
    ∨ (∃ c, s.nextAction = .releaseReset c ∧ (State.powerOn c).SameStrip t)
    ∨ ∃ i vals u, s.setLed i vals = .ok u ∧ u.SameStrip t := by
  have pop := s.sameStrip_popAction
  rcases step_cases h with ⟨host, w, -, he⟩ | ⟨-, rfl⟩ | ⟨-, -, hp⟩
  · have taken := pop.trans (s.popAction.sameStrip_take host w)
    rcases exec_strip_cases he with same | ⟨i, vals, u', hu', same⟩
    · exact .inl (taken.trans same)
    · obtain ⟨u, hu, huu'⟩ := taken.setLed hu'
      exact .inr (.inr ⟨i, vals, u, hu, huu'.trans same⟩)
  · by_cases hc : ∃ c, s.nextAction = .releaseReset c
    · obtain ⟨c, hc⟩ := hc
      exact .inr (.inl ⟨c, hc, by rw [hc]; exact ⟨rfl, rfl, rfl, rfl, rfl⟩⟩)
    · exact .inl (pop.trans (s.popAction.sameStrip_performInReset fun c e => hc ⟨c, e⟩))
  · exact .inl (pop.trans (State.sameStrip_perform hp))

/-- Only a reset release changes the configuration (R126). -/
theorem step_cfg {s t : State} (ha : ∀ c, s.nextAction ≠ .releaseReset c) (h : step s = .next t) : t.cfg = s.cfg := by
  rcases step_strip_cases h with same | ⟨c, hc, -⟩ | ⟨i, vals, u, hu, same⟩
  · exact same.cfg_eq
  · exact absurd hc (ha c)
  · obtain ⟨-, -, -, rfl⟩ := State.setLed_eq_ok.1 hu
    exact same.cfg_eq

end Sys2Proof.Machine
end

section
/-! # Symbols and their source bits (R72, R75) -/

namespace Sys2Proof.Machine

/-- `encode(v)` is the symbols of the bits of `v` in wire order (R72). -/
theorem encodeSymbols_eq_map_wireBits (c : Config) (v : Byte) : encodeSymbols c v = (wireBits v).map (symbolOf c) := by
  simp [encodeSymbols, encodeLoop, wireBits]

/-- A byte is the one its bits in wire order make. -/
theorem byteOfBits_wireBits (v : Byte) : byteOfBits (wireBits v) = v := by
  revert v; decide

theorem bitOfSymbol_symbolOf {c : Config} (hne : c.zeroSymbol ≠ c.oneSymbol) (b : Bool) :
    bitOfSymbol c (symbolOf c b) = some b := by
  cases b <;> simp [symbolOf, bitOfSymbol, hne]

theorem bitsOfSymbols_map_symbolOf {c : Config} (hne : c.zeroSymbol ≠ c.oneSymbol) (bits : List Bool) :
    bitsOfSymbols c (bits.map (symbolOf c)) = some bits := by
  induction bits with
  | nil => rfl
  | cons b bits ih => simp [bitsOfSymbols, ih, bitOfSymbol_symbolOf hne]

/-- Decoding undoes encoding (R75). -/
theorem decodeSymbols_encodeSymbols {c : Config} (hne : c.zeroSymbol ≠ c.oneSymbol) (v : Byte) :
    decodeSymbols c (encodeSymbols c v) = some v := by
  rw [decodeSymbols, if_pos (length_encodeSymbols c v), encodeSymbols_eq_map_wireBits, bitsOfSymbols_map_symbolOf hne,
    Option.map_some, byteOfBits_wireBits]

/-- Channel value 0 is eight times `ZERO_SYMBOL`. -/
theorem encodeSymbols_zero (c : Config) : encodeSymbols c 0 = List.replicate 8 c.zeroSymbol := rfl

theorem formatWire_cons (c : Config) (v : Byte) (vs : List Byte) :
    formatWire c (v :: vs) = encodeSymbols c v ++ formatWire c vs := rfl

theorem formatWire_replicate_zero (c : Config) (n : Nat) :
    formatWire c (List.replicate n 0) = List.replicate (8 * n) c.zeroSymbol := by
  induction n with
  | zero => rfl
  | succ n ih => rw [List.replicate_succ, formatWire_cons, ih, encodeSymbols_zero, List.replicate_append_replicate,
      Nat.mul_succ, Nat.add_comm]

/-- Lane `k` of a formatted sequence is the encoding of its value `k` (R80). -/
theorem lane_formatWire (c : Config) {vs : List Byte} {k : Nat} (hk : k < vs.length) :
    ((formatWire c vs).drop (8 * k)).take 8 = encodeSymbols c vs[k] := by
  induction vs generalizing k with
  | nil => exact absurd hk (Nat.not_lt_zero k)
  | cons v vs ih =>
    cases k with
    | zero => simp [formatWire_cons]
    | succ k =>
      have past : 8 * (k + 1) = (encodeSymbols c v).length + 8 * k := by rw [length_encodeSymbols]; omega
      rw [formatWire_cons, past, List.drop_length_add_append, List.getElem_cons_succ]
      exact ih _

end Sys2Proof.Machine
end

section
/-! # The buffer reflects the LED values (R23) -/

namespace Sys2Proof.Machine

theorem Memory.readBytes_nil (d : Byte) (a n : Nat) : Memory.readBytes d [] a n = List.replicate n d := by
  simp [Memory.readBytes]

/-- A sequence read from inside a longer one. -/
theorem Memory.take_drop_readBytes (d : Byte) (m : List Host.Cell) {a b k n : Nat} (h : b + k ≤ n) :
    ((Memory.readBytes d m a n).drop b).take k = Memory.readBytes d m (a + b) k := by
  refine List.ext_getElem (by simp; omega) fun j h1 h2 => ?_
  simp [Nat.add_assoc]

/-- The LED values of R22 are a byte sequence of the ghost memory. -/
theorem State.ledVals_eq_readBytes (s : State) (i : Nat) :
    s.ledVals i = Memory.readBytes 0 s.led (i * s.cfg.channels) s.cfg.channels := rfl

theorem State.memRead_eq_some {s : State} {a n : Nat} {bs : List Byte} :
    s.memRead a n = some bs ↔ a + n ≤ s.bufSize ∧ Memory.readBytes s.cfg.zeroSymbol s.buf a n = bs := by
  unfold State.memRead
  split_ifs with h <;> simp [h]

/-- The blocks of `n` addresses of two different indices are apart. -/
theorem block_disjoint {i j : Nat} (n : Nat) (h : j ≠ i) : j * n + n ≤ i * n ∨ i * n + n ≤ j * n := by
  simp only [← Nat.succ_mul]
  exact (Nat.lt_or_gt_of_ne h).imp (Nat.mul_le_mul_right n) (Nat.mul_le_mul_right n)

theorem State.InitOk.profileValid {s : State} (h : s.InitOk) (hr : s.ready = true) : s.cfg.profileValid = true :=
  ((Config.initReady_iff s.cfg).1 (h.ready_eq.symm.trans hr)).1

/-- R23's invariant speaks of the strip alone. -/
theorem State.SameStrip.reflectsLed {s t : State} (h : s.SameStrip t) (hs : s.ReflectsLed) : t.ReflectsLed := by
  unfold State.ReflectsLed at hs ⊢
  simpa only [State.memRead, h.bufSize_eq, State.ledVals_eq_readBytes, h.cfg_eq, h.ready_eq, h.buf_eq, h.led_eq] using hs

/-- After a reset release every LED is dark and the buffer encodes that. -/
theorem State.reflectsLed_powerOn (c : Config) : (State.powerOn c).ReflectsLed := by
  intro hr i hi
  have hv : c.profileValid = true := ((Config.initReady_iff c).1 hr).1
  rw [State.memRead_eq_some, State.bufSize_of_ready hr]
  refine ⟨regionStart_add_le hi, ?_⟩
  calc Memory.readBytes c.zeroSymbol [] (regionStart c i) c.pixelSymbolSize
      = List.replicate (8 * c.channels) c.zeroSymbol := by rw [Memory.readBytes_nil, Config.pixelSymbolSize_of_valid hv]
    _ = formatWire c ((State.powerOn c).ledVals i) := by
      rw [← formatWire_replicate_zero, State.ledVals_eq_readBytes]
      exact congrArg (formatWire c) (Memory.readBytes_nil 0 _ _).symm

/-- The region update of R85 keeps R23's invariant: the LED's region and its values change together, those of every other
LED stay. -/
theorem State.reflectsLed_setLed {s t : State} {i : Nat} {vals : ChannelValues} (hinit : s.InitOk) (hs : s.ReflectsLed)
    (h : s.setLed i vals = .ok t) : t.ReflectsLed := by
  obtain ⟨_, hlen, _, rfl⟩ := State.setLed_eq_ok.1 h
  intro hr j hj
  have hread := hs hr j hj
  rw [State.memRead_eq_some] at hread ⊢
  obtain ⟨hin, hregion⟩ := hread
  refine ⟨hin, ?_⟩
  have hvals : (wireVals s.cfg vals).length = s.cfg.channels := by
    have := Config.channels_pos (hinit.profileValid hr)
    rw [length_wireVals]
    omega
  simp only [State.ledVals_eq_readBytes] at hregion ⊢
  by_cases hji : j = i
  · subst hji
    have hbuf := Memory.readBytes_writeBytes s.cfg.zeroSymbol s.buf (regionStart s.cfg j) (formatPixel s.cfg vals)
    have hled := Memory.readBytes_writeBytes 0 s.led (j * s.cfg.channels) (wireVals s.cfg vals)
    rw [hlen] at hbuf
    rw [hvals] at hled
    rw [hbuf, hled, formatPixel]
  · rw [Memory.readBytes_writeBytes_of_disjoint (by rw [hlen]; exact block_disjoint _ hji),
      Memory.readBytes_writeBytes_of_disjoint (by rw [hvals]; exact block_disjoint _ hji), hregion]

/-- Every step of every agent keeps R23's invariant. -/
theorem step_reflectsLed {s t : State} (hinit : s.InitOk) (hs : s.ReflectsLed) (h : step s = .next t) : t.ReflectsLed := by
  rcases step_strip_cases h with same | ⟨c, -, same⟩ | ⟨i, vals, u, hu, same⟩
  · exact same.reflectsLed hs
  · exact same.reflectsLed (State.reflectsLed_powerOn c)
  · exact same.reflectsLed (State.reflectsLed_setLed hinit hs hu)

/-- Lane `k` of LED `i`'s region is the encoding of `led[i][k]`. -/
theorem State.ReflectsLed.memRead_lane {s : State} (hs : s.ReflectsLed) (hv : s.cfg.profileValid = true)
    (hr : s.ready = true) {i k : Nat} (hi : i < s.cfg.leds) (hk : k < s.cfg.channels) :
    s.memRead (i * s.cfg.pixelSymbolSize + 8 * k) 8 = some (encodeSymbols s.cfg (s.ledValue i k)) := by
  have hsize := Config.pixelSymbolSize_of_valid hv
  have hlane : 8 * k + 8 ≤ s.cfg.pixelSymbolSize := by omega
  obtain ⟨hin, hregion⟩ := State.memRead_eq_some.1 (hs hr i hi)
  rw [State.memRead_eq_some]
  constructor
  · rw [regionStart] at hin
    omega
  · have hlen : k < (s.ledVals i).length := by simpa [State.ledVals] using hk
    calc Memory.readBytes s.cfg.zeroSymbol s.buf (i * s.cfg.pixelSymbolSize + 8 * k) 8
        = ((formatWire s.cfg (s.ledVals i)).drop (8 * k)).take 8 := by
          rw [← hregion, Memory.take_drop_readBytes _ _ hlane, regionStart]
      _ = encodeSymbols s.cfg (s.ledVals i)[k] := lane_formatWire s.cfg hlen
      _ = encodeSymbols s.cfg (s.ledValue i k) := by simp [State.ledVals]

/-- Settles O55: a step leaves the strip alone, releases a reset, or rewrites one LED's values and region together; and each
lane of a region is the encoding of one value, which R75's decode undoes. -/
theorem bufferReflectsLeds : Obligations.BufferReflectsLeds := by
  refine ⟨State.reflectsLed_powerOn, fun s t => step_reflectsLed, fun s i k hinit hs hr hi hk => ?_⟩
  have hv := hinit.profileValid hr
  obtain ⟨-, -, -, hne, -, -⟩ := (Config.profileValid_iff s.cfg).1 hv
  exact ⟨_, hs.memRead_lane hv hr hi hk, decodeSymbols_encodeSymbols hne _⟩

end Sys2Proof.Machine
end

section
/-! # The register port (R29 to R35) -/

namespace Sys2Proof.Machine

/-! ## Fields of appended vectors -/

/-- A field that starts at or above the low part of an appended vector is a field of the high part. -/
theorem extractLsb'_append_of_le {n m a k : Nat} (x : BitVec n) (y : BitVec m) (h : m ≤ a) :
    (x ++ y).extractLsb' a k = x.extractLsb' (a - m) k := by
  ext i hi
  have : ¬a + i < m := by omega
  simp [BitVec.getLsbD_append, this, Nat.sub_add_comm h]

/-- The lowest field of an appended vector is its low part. -/
theorem extractLsb'_append_low {n m : Nat} (x : BitVec n) (y : BitVec m) : (x ++ y).extractLsb' 0 m = y := by
  ext i hi
  simp [BitVec.getLsbD_append, hi]

/-! ## Reads -/

/-- A read with the port's width at an aligned offset of the register space gives the register there (R107). -/
theorem State.readReg_eq_value (s : State) {off : Nat} (ha : off % 4 = 0) (hle : off ≤ 0xFFC) :
    s.readReg off 32 = .value (s.reg off) := by
  have : ¬off > 0xFFC := by omega
  simp [State.readReg, ha, this]

theorem State.readReg_popAction (s : State) (off width : Nat) : s.popAction.readReg off width = s.readReg off width := by
  simp [State.readReg, State.reg, State.statusReg, State.busyBit, State.readyBit, State.initErrBits]

/-- Every register but STATUS is a function of the configuration. -/
theorem State.readReg_of_cfg_eq {s t : State} (h : t.cfg = s.cfg) {off : Nat} (hoff : off ≠ 0) (width : Nat) :
    t.readReg off width = s.readReg off width := by
  simp [State.readReg, State.reg, h, hoff]

/-- A register read's step: the answer is recorded and nothing else changes (R45, R107; log 14). -/
theorem step_of_read {s : State} {h : HostId} {off width : Nat} (ht : s.Turn (.read h off width)) :
    step s = .next { s.popAction with
      reads := s.reads ++ [{ h := h, off := off, width := width, result := s.readReg off width }] } := by
  obtain ⟨hreset, hnext⟩ := ht
  have hacc : s.accepted = none := State.accepted_eq_none fun host => by simp [hnext]
  rw [step_of_perform hreset hacc, hnext, State.perform, State.answerRead, State.readReg_popAction, State.popAction_reads]

/-! ## STATUS (R29) -/

theorem State.busyBit_eq_one_iff (s : State) : s.busyBit = 1 ↔ s.phase ≠ .idle := by
  simp [State.busyBit]

theorem State.readyBit_eq_one_iff (s : State) : s.readyBit = 1 ↔ s.ready = true := by
  simp [State.readyBit]

theorem State.statusReg_busy (s : State) : s.statusReg.extractLsb' 0 1 = s.busyBit := extractLsb'_append_low _ _

theorem State.statusReg_ready (s : State) : s.statusReg.extractLsb' 1 1 = s.readyBit := by
  rw [State.statusReg, extractLsb'_append_of_le _ _ (by decide)]
  exact extractLsb'_append_low _ _

theorem State.statusReg_initErr (s : State) : s.statusReg.extractLsb' 2 2 = s.initErr.code := by
  rw [State.statusReg, extractLsb'_append_of_le _ _ (by decide), extractLsb'_append_of_le _ _ (by decide)]
  exact extractLsb'_append_low _ _

theorem State.statusReg_zero (s : State) : s.statusReg.extractLsb' 4 28 = 0 := by
  rw [State.statusReg, extractLsb'_append_of_le _ _ (by decide), extractLsb'_append_of_le _ _ (by decide),
    extractLsb'_append_of_le _ _ (by decide)]
  exact BitVec.extractLsb'_eq_self

/-- STATUS after a reset release: busy with the reset gap if the check passed, else idle with its error (R29, R129). -/
theorem statusReg_powerOn (c : Config) :
    (State.powerOn c).statusReg =
      match c.initCheck with
      | .noError => 0x00000003
      | .configurationError => 0x00000004
      | .allocationFailure => 0x00000008 := by
  cases hc : c.initCheck <;>
    simp [State.statusReg, State.busyBit, State.readyBit, State.initErrBits, State.powerOn, Config.initReady, hc,
      InitErr.code]

/-- Settles O46: each field of STATUS is one part of the appended vector, and a read's step only records its answer. -/
theorem statusRegister : Obligations.StatusRegister := by
  refine ⟨fun s => ⟨s.statusReg, rfl, ?_, ?_, s.statusReg_initErr, s.statusReg_zero, fun h ht => step_of_read ht⟩,
    fun c => congrArg ReadResult.value (statusReg_powerOn c)⟩
  · rw [BitVec.getLsbD_eq_extractLsb', s.statusReg_busy, beq_iff_eq]
    exact s.busyBit_eq_one_iff
  · rw [BitVec.getLsbD_eq_extractLsb', s.statusReg_ready, beq_iff_eq]
    exact s.readyBit_eq_one_iff

/-! ## PROFILE (R30) -/

theorem profileReg_zeroSymbol (c : Config) : (profileReg c).extractLsb' 0 8 = c.zeroSymbol := extractLsb'_append_low _ _

theorem profileReg_oneSymbol (c : Config) : (profileReg c).extractLsb' 8 8 = c.oneSymbol := by
  rw [profileReg, extractLsb'_append_of_le _ _ (by decide)]
  exact extractLsb'_append_low _ _

theorem profileReg_bitsPerChannel (c : Config) : (profileReg c).extractLsb' 16 4 = c.bitsPerChannel := by
  rw [profileReg, extractLsb'_append_of_le _ _ (by decide), extractLsb'_append_of_le _ _ (by decide)]
  exact extractLsb'_append_low _ _

theorem profileReg_channelsPerLed (c : Config) : (profileReg c).extractLsb' 20 4 = c.channelsPerLed := by
  rw [profileReg]
  iterate 3 rw [extractLsb'_append_of_le _ _ (by decide)]
  exact extractLsb'_append_low _ _

/-- The four slots above the four fields of the profile. -/
theorem profileReg_order (c : Config) (k : Nat) :
    (profileReg c).extractLsb' (24 + 2 * k) 2 =
      (orderSlot c 3 c.order.slot3 ++ orderSlot c 2 c.order.slot2 ++ orderSlot c 1 c.order.slot1
        ++ orderSlot c 0 c.order.slot0).extractLsb' (2 * k) 2 := by
  rw [profileReg]
  iterate 4 rw [extractLsb'_append_of_le _ _ (by omega)]
  congr 1
  omega

/-- Slot `k` of CHANNEL_ORDER is the code of `ORDER[k]`, or 0 past the channels. -/
theorem profileReg_slot (c : Config) {k : Nat} {q : Role} (h : c.order.toList[k]? = some q) :
    (profileReg c).extractLsb' (24 + 2 * k) 2 = orderSlot c k q := by
  rw [profileReg_order]
  match k with
  | 0 =>
    cases h
    exact extractLsb'_append_low _ _
  | 1 =>
    cases h
    rw [extractLsb'_append_of_le _ _ (by decide)]
    exact extractLsb'_append_low _ _
  | 2 =>
    cases h
    iterate 2 rw [extractLsb'_append_of_le _ _ (by decide)]
    exact extractLsb'_append_low _ _
  | 3 =>
    cases h
    iterate 3 rw [extractLsb'_append_of_le _ _ (by decide)]
    exact BitVec.extractLsb'_eq_self
  | k + 4 => simp [ChannelOrder.toList] at h

theorem profileReg_calibration (leds : Reg32) (capacity : Nat) (gap : LatchClks) :
    profileReg (Config.calibration leds capacity gap) = 0x2138FCC0 := by
  simp [profileReg, orderSlot, Config.calibration, Config.channels, Role.code]

/-- Settles O47: the fields as parts of the appended vector; PROFILE is a function of the configuration, which only a reset
release changes. -/
theorem profileRegister : Obligations.ProfileRegister := by
  refine ⟨fun s => ?_, fun s t ha h => State.readReg_of_cfg_eq (step_cfg ha h) (by decide) 32,
    fun s leds capacity gap hcfg => ?_⟩
  · exact ⟨profileReg s.cfg, rfl, profileReg_zeroSymbol _, profileReg_oneSymbol _, profileReg_bitsPerChannel _,
      profileReg_channelsPerLed _, fun k q hq => profileReg_slot _ hq⟩
  · have hread : s.readReg 0x004 32 = .value (profileReg s.cfg) := rfl
    rw [hread, hcfg, profileReg_calibration]

/-! ## The other registers (R31 to R35) -/

/-- The product of two 4-bit counts is at most 225. -/
theorem pixelSymbolSize_le (c : Config) : c.pixelSymbolSize ≤ 225 :=
  Nat.mul_le_mul (Nat.le_of_lt_succ c.bitsPerChannel.isLt) (Nat.le_of_lt_succ c.channelsPerLed.isLt)

/-- PIXEL_SIZE holds the whole product: its reduction mod 256 never cuts anything (R34). -/
theorem pixelSizeReg_eq (c : Config) : pixelSizeReg c = BitVec.ofNat 32 c.pixelSymbolSize := by
  have hle := pixelSymbolSize_le c
  have hzero : (0 : BitVec 24).toNat = 0 := rfl
  apply BitVec.eq_of_toNat_eq
  rw [pixelSizeReg, toNat_append_eq_add, BitVec.toNat_ofNat, BitVec.toNat_ofNat, hzero]
  omega

/-- A reserved offset reads as 0 (R35). -/
theorem State.readReg_reserved (s : State) {off : Nat} (hge : 0x018 ≤ off) (hle : off ≤ 0xFFC) (ha : off % 4 = 0) :
    s.readReg off 32 = .value 0 := by
  have past : ∀ n < 0x018, off ≠ n := fun n hn => by omega
  rw [s.readReg_eq_value ha hle]
  simp [State.reg, past]

/-- Settles O48: these registers are functions of the configuration too, and the product they hold fits in its byte. -/
theorem configurationRegisters : Obligations.ConfigurationRegisters := by
  refine ⟨fun s => ⟨rfl, rfl, rfl, congrArg ReadResult.value (pixelSizeReg_eq s.cfg), pixelSymbolSize_le s.cfg,
    fun off hge hle ha => ⟨s.readReg_reserved hge hle ha, fun h ht => ?_⟩⟩, fun s t ha h => ?_⟩
  · rw [step_of_read ht, s.readReg_reserved hge hle ha]
  · have kept {off : Nat} (hoff : off ≠ 0) := State.readReg_of_cfg_eq (step_cfg ha h) hoff 32
    exact ⟨kept (by decide), kept (by decide), kept (by decide), kept (by decide)⟩

end Sys2Proof.Machine
end

section
/-! # What a command, a period and a transport fault can do, said once -/

namespace Sys2Proof.Machine

/-- What a command can do (R83): answer, where it is no in-range update of a ready block, or write its region and start the
frame (R87). -/
theorem exec_cases {i : Instr} {s t : State} (h : exec i s = .next t) :
    ((s.ready = true → ∀ index vals, i = .setBrightness index vals → s.cfg.leds ≤ ledIndex index)
        ∧ ∃ w code detail data, t = s.respond w code detail data)
    ∨ ∃ index vals u, i = .setBrightness index vals ∧ s.ready = true ∧ s.setLed (ledIndex index) vals = .ok u
        ∧ t = u.startFrame := by
  by_cases hi : ∃ index vals, i = .setBrightness index vals
  · obtain ⟨index, vals, rfl⟩ := hi
    rcases execSetBrightness_cases h with ⟨hr, rfl⟩ | ⟨_, hle, rfl⟩ | ⟨hr, u, hu, rfl⟩
    · exact .inl ⟨fun hr' => absurd (hr.symm.trans hr') Bool.false_ne_true, _, _, _, _, rfl⟩
    · exact .inl ⟨fun _ _ _ e => by cases e; exact hle, _, _, _, _, rfl⟩
    · exact .inr ⟨index, vals, u, rfl, hr, hu, rfl⟩
  · obtain ⟨code, data, he, _⟩ := exec_answers (i := i) s fun index vals e => hi ⟨index, vals, e⟩
    cases he.symm.trans h
    exact .inl ⟨fun _ index vals e => absurd ⟨index, vals, e⟩ hi, _, _, _, _, rfl⟩

/-- What a bus clock period can do (R93): leave the line low in `Idle` or before bit 0, emit a bit, count a gap down, end the
gap after reset, or end a command's gap with its answer. -/
theorem State.period_cases {s t : State} {hold : Bool} (ht : s.period hold = .next t) :
    ((s.phase = .idle ∨ ∃ h, s.phase = .tx h 0 ∧ hold = true) ∧ t = s.lowPeriod)
    ∨ (∃ h k b, s.phase = .tx h k ∧ ¬(k = 0 ∧ hold = true) ∧ s.frameBit k = some b ∧ t = s.emitBit h k b)
    ∨ (∃ n owner, s.phase = .gap n owner ∧ 1 < n ∧ t = s.lowPeriod.withPhase (.gap (n - 1) owner))
    ∨ (∃ n, s.phase = .gap n none ∧ t = s.lowPeriod.withPhase .idle)
    ∨ ∃ n o w, s.phase = .gap n (some o) ∧ s.outstandingOf o.host = some w
        ∧ t = (s.lowPeriod.finish o.host w o.result.code o.result.detail zeros).withPhase .idle := by
  unfold State.period at ht
  cases hp : s.phase with
  | idle =>
    rw [hp] at ht
    cases ht
    exact .inl ⟨.inl rfl, rfl⟩
  | tx h k =>
    simp only [hp, State.txPeriod] at ht
    split_ifs at ht with hheld
    · obtain ⟨rfl, hhold⟩ := hheld
      cases ht
      exact .inl ⟨.inr ⟨h, rfl, hhold⟩, rfl⟩
    · cases hb : s.frameBit k with
      | none => rw [hb] at ht; cases ht
      | some b =>
        rw [hb] at ht
        cases ht
        exact .inr (.inl ⟨h, k, b, rfl, hheld, hb, rfl⟩)
  | gap n owner =>
    simp only [hp, State.gapPeriod] at ht
    split_ifs at ht with hn
    · cases ht
      exact .inr (.inr (.inl ⟨n, owner, rfl, hn, rfl⟩))
    · cases owner with
      | none =>
        cases ht
        exact .inr (.inr (.inr (.inl ⟨n, rfl, rfl⟩)))
      | some o =>
        cases hw : s.outstandingOf o.host with
        | none =>
          rw [State.gapEnd, show s.lowPeriod.outstandingOf o.host = none from hw] at ht
          cases ht
        | some w =>
          rw [State.gapEnd, show s.lowPeriod.outstandingOf o.host = some w from hw] at ht
          cases ht
          exact .inr (.inr (.inr (.inr ⟨n, o, w, rfl, hw, rfl⟩)))

/-- What a transport fault can do (R102): nothing, end the frame on the line, or change the answer its gap waits for. -/
theorem State.transportFault_cases (s : State) (c : Byte) :
    s.transportFault c = s
    ∨ (∃ h k, s.phase = .tx h k ∧ s.transportFault c
        = (s.markFrame .aborted).withPhase (.gap s.cfg.latch (some { host := h, result := .transportError c })))
    ∨ ∃ n h, s.phase = .gap n (some { host := h, result := .ok })
        ∧ s.transportFault c = s.withPhase (.gap n (some { host := h, result := .transportError c })) := by
  unfold State.transportFault
  split
  next h k hp => exact .inr (.inl ⟨h, k, hp, rfl⟩)
  next n h hp => exact .inr (.inr ⟨n, h, hp, rfl⟩)
  all_goals exact .inl rfl

/-- What an offer can do (R52): nothing, or stand at the port of a host with no command in flight. -/
theorem State.offer_cases (s : State) (h : HostId) (w : Word) :
    s.offer h w = s
    ∨ s.waitingOf h = none ∧ s.outstandingOf h = none ∧ s.offer h w = { s with waiting := Sparse.put s.waiting h w } := by
  unfold State.offer
  split_ifs with hfree
  · exact .inr ⟨hfree.1, hfree.2, rfl⟩
  · exact .inl rfl

/-- Emitting a bit of a frame changes the line, the frame's entry and the phase. -/
theorem State.emitBit_cases (s : State) (h : HostId) (k : Nat) (b : Bool) :
    (k + 1 < s.cfg.frameBits ∧ s.emitBit h k b = (s.emit b).withPhase (.tx h (k + 1)))
    ∨ s.cfg.frameBits ≤ k + 1 ∧ s.emitBit h k b
        = ((s.emit b).markFrame .complete).withPhase (.gap s.cfg.latch (some { host := h, result := .ok })) := by
  unfold State.emitBit
  split_ifs with hk
  · exact .inl ⟨hk, rfl⟩
  · exact .inr ⟨Nat.le_of_not_lt hk, rfl⟩

end Sys2Proof.Machine
end

section
/-! # The command ports, the agenda and the block's own choices, from step to step -/

namespace Sys2Proof.Machine

/-- The reset input, the agenda, the bookkeeping of the block's own choices and the waiting commands of `t` are those of `s`,
and so are the outstanding words but for at most one host, which has been answered. -/
structure State.KeepsPorts (s t : State) : Prop where
  resetAsserted_eq : t.resetAsserted = s.resetAsserted
  agenda_eq : t.agenda = s.agenda
  delay_eq : t.delay = s.delay
  waiting_eq : t.waiting = s.waiting
  outstanding_cases : t.outstanding = s.outstanding ∨ ∃ h, t.outstanding = Sparse.erase s.outstanding h

theorem exec_keepsPorts {i : Instr} {s t : State} (h : exec i s = .next t) : s.KeepsPorts t := by
  rcases exec_cases h with ⟨-, w, code, detail, data, rfl⟩ | ⟨index, vals, u, -, -, hu, rfl⟩
  · exact ⟨rfl, rfl, rfl, rfl, .inr ⟨s.serving, rfl⟩⟩
  · obtain ⟨-, -, -, rfl⟩ := State.setLed_eq_ok.1 hu
    exact ⟨rfl, rfl, rfl, rfl, .inl rfl⟩

theorem State.period_keepsPorts {s t : State} {hold : Bool} (ht : s.period hold = .next t) : s.KeepsPorts t := by
  rcases State.period_cases ht with ⟨-, rfl⟩ | ⟨h, k, b, -, -, -, rfl⟩ | ⟨n, o, -, -, rfl⟩
    | ⟨n, -, rfl⟩ | ⟨n, o, w, -, -, rfl⟩
  · exact ⟨rfl, rfl, rfl, rfl, .inl rfl⟩
  · rcases s.emitBit_cases h k b with ⟨-, e⟩ | ⟨-, e⟩ <;> rw [e] <;> exact ⟨rfl, rfl, rfl, rfl, .inl rfl⟩
  · exact ⟨rfl, rfl, rfl, rfl, .inl rfl⟩
  · exact ⟨rfl, rfl, rfl, rfl, .inl rfl⟩
  · exact ⟨rfl, rfl, rfl, rfl, .inr ⟨o.host, rfl⟩⟩

theorem State.transportFault_keepsPorts (s : State) (c : Byte) : s.KeepsPorts (s.transportFault c) := by
  rcases s.transportFault_cases c with e | ⟨h, k, -, e⟩ | ⟨n, h, -, e⟩ <;> rw [e] <;> exact ⟨rfl, rfl, rfl, rfl, .inl rfl⟩

/-- What the step of an agent other than an acceptance can do to the ports out of reset: answer at most one host, put an
offered command on the port of a host with none in flight, or assert reset. -/
theorem State.perform_ports_cases {s t : State} {a : Action} (ht : s.perform a = .next t) :
    s.KeepsPorts t
    ∨ (∃ h w, a = .offer h w ∧ s.waitingOf h = none ∧ s.outstandingOf h = none
        ∧ t = { s with waiting := Sparse.put s.waiting h w })
    ∨ (a = .assertReset ∧ t = s.assertReset) := by
  have same : s.KeepsPorts s := ⟨rfl, rfl, rfl, rfl, .inl rfl⟩
  cases a with
  | period hold => exact .inl (State.period_keepsPorts ht)
  | fault c => cases ht; exact .inl (s.transportFault_keepsPorts c)
  | assertReset => cases ht; exact .inr (.inr ⟨rfl, rfl⟩)
  | read h off width => cases ht; exact .inl ⟨rfl, rfl, rfl, rfl, .inl rfl⟩
  | accept h => cases ht; exact .inl same
  | releaseReset c => cases ht; exact .inl same
  | offer h w =>
    cases ht
    rcases s.offer_cases h w with e | ⟨hwait, hout, e⟩
    · rw [e]; exact .inl same
    · exact .inr (.inl ⟨h, w, rfl, hwait, hout, e⟩)

end Sys2Proof.Machine
end

section
/-! # Busy: nothing is accepted and the strip holds (R49) -/

namespace Sys2Proof.Machine

/-- Nothing is accepted outside `Idle` (R83). -/
theorem State.accepted_of_busy {s : State} (h : s.phase ≠ .idle) : s.accepted = none := by
  rcases ha : s.accepted with _ | ⟨host, w⟩
  · rfl
  · exact absurd (State.accepted_eq_some.1 ha).2.2.1 h

/-- Out of reset, a step that accepts nothing and does not assert reset changes the outstanding words only by an answer, and
that answer ends the gap: the engine is `Idle`. -/
theorem State.perform_outstanding {s t : State} {a : Action} (ha : a ≠ .assertReset) (ht : s.perform a = .next t) :
    t.outstanding = s.outstanding ∨ t.phase = .idle := by
  cases a with
  | period hold =>
    rcases State.period_cases ht with ⟨-, rfl⟩ | ⟨h, k, b, -, -, -, rfl⟩ | ⟨n, o, -, -, rfl⟩
      | ⟨n, -, rfl⟩ | ⟨n, o, w, -, -, rfl⟩
    · exact .inl rfl
    · rcases s.emitBit_cases h k b with ⟨-, e⟩ | ⟨-, e⟩ <;> rw [e] <;> exact .inl rfl
    · exact .inl rfl
    · exact .inr rfl
    · exact .inr rfl
  | fault c =>
    cases ht
    rcases s.transportFault_cases c with e | ⟨h, k, -, e⟩ | ⟨n, h, -, e⟩ <;> rw [e] <;> exact .inl rfl
  | offer h w =>
    cases ht
    rcases s.offer_cases h w with e | ⟨-, -, e⟩ <;> rw [e] <;> exact .inl rfl
  | assertReset => exact absurd rfl ha
  | read h off width => cases ht; exact .inl rfl
  | accept h => cases ht; exact .inl rfl
  | releaseReset c => cases ht; exact .inl rfl

/-- Settles O28: a busy engine accepts nothing, so the step is another agent's; that leaves the strip alone, and only the
answer at a gap's end changes an outstanding word. -/
theorem bufferHeldWhileBusy : Obligations.BufferHeldWhileBusy := by
  intro s t hr hbusy hassert h
  have hnone := State.accepted_of_busy hbusy
  rw [step_of_perform hr hnone] at h
  have strip := s.sameStrip_popAction.trans (State.sameStrip_perform h)
  refine ⟨hnone, strip.buf_eq, strip.led_eq, strip.cfg_eq, strip.ready_eq, fun host => ?_⟩
  refine (State.perform_outstanding hassert h).imp_left fun e => ?_
  rw [State.outstandingOf, e, State.popAction_outstanding, State.outstandingOf]

end Sys2Proof.Machine
end

section
/-! # One frame for each accepted in-range update (R51) -/

namespace Sys2Proof.Machine

theorem startsFrame_iff {c : Config} {w : Word} :
    startsFrame c w = true ↔ ∃ index vals, decodeWord w = .setBrightness index vals ∧ ledIndex index < c.leds := by
  unfold startsFrame
  cases decodeWord w <;> simp

/-! ## What the operations do to the number of frames started -/

theorem isFrame_push (b : Bool) (e : FrameEntry) : (FrameEntry.push b e).isFrame = e.isFrame := by cases e <;> rfl

theorem isFrame_mark (st : FrameStatus) (e : FrameEntry) : (FrameEntry.mark st e).isFrame = e.isFrame := by cases e <;> rfl

/-- The number of frames started is a function of `frames`. -/
theorem State.framesStarted_of_frames_eq {s t : State} (h : t.frames = s.frames) : t.framesStarted = s.framesStarted :=
  congrArg (List.countP FrameEntry.isFrame) h

@[simp] theorem State.framesStarted_withPhase (s : State) (p : Phase) : (s.withPhase p).framesStarted = s.framesStarted := rfl

@[simp] theorem State.framesStarted_emit (s : State) (b : Bool) : (s.emit b).framesStarted = s.framesStarted :=
  countP_updateLast (isFrame_push b) s.frames

@[simp] theorem State.framesStarted_markFrame (s : State) (st : FrameStatus) :
    (s.markFrame st).framesStarted = s.framesStarted :=
  countP_updateLast (isFrame_mark st) s.frames

@[simp] theorem State.framesStarted_startFrame (s : State) : s.startFrame.framesStarted = s.framesStarted + 1 := by
  simp [State.framesStarted, FrameEntry.isFrame]

theorem State.framesStarted_assertReset (s : State) : s.assertReset.framesStarted = s.framesStarted := by
  have abort : s.abortFrame.framesStarted = s.framesStarted := by
    unfold State.abortFrame
    split
    · exact s.framesStarted_markFrame .aborted
    · rfl
    · rfl
  calc s.assertReset.framesStarted = (s.abortFrame.frames ++ [FrameEntry.reset]).countP FrameEntry.isFrame := rfl
    _ = s.abortFrame.framesStarted := by simp [FrameEntry.isFrame, State.framesStarted]
    _ = s.framesStarted := abort

theorem State.framesStarted_period {s t : State} {hold : Bool} (ht : s.period hold = .next t) :
    t.framesStarted = s.framesStarted := by
  rcases State.period_cases ht with ⟨-, rfl⟩ | ⟨h, k, b, -, -, -, rfl⟩ | ⟨n, o, -, -, rfl⟩
    | ⟨n, -, rfl⟩ | ⟨n, o, w, -, -, rfl⟩
  · rfl
  · rcases s.emitBit_cases h k b with ⟨-, e⟩ | ⟨-, e⟩ <;> simp [e]
  · rfl
  · rfl
  · rfl

/-- No step but an acceptance starts a frame. -/
theorem State.framesStarted_perform {s t : State} {a : Action} (ht : s.perform a = .next t) :
    t.framesStarted = s.framesStarted := by
  cases a with
  | period hold => exact State.framesStarted_period ht
  | assertReset => cases ht; exact s.framesStarted_assertReset
  | fault c =>
    cases ht
    rcases s.transportFault_cases c with e | ⟨h, k, -, e⟩ | ⟨n, h, -, e⟩ <;> simp [e]
  | offer h w =>
    cases ht
    rcases s.offer_cases h w with e | ⟨-, -, e⟩
    · rw [e]
    · rw [e]
      rfl
  | read h off width => cases ht; rfl
  | accept h => cases ht; rfl
  | releaseReset c => cases ht; rfl

theorem State.framesStarted_performInReset (s : State) (a : Action) : (s.performInReset a).framesStarted = s.framesStarted := by
  cases a <;> rfl

/-- A command starts one frame if it is an in-range update of a ready block, and none otherwise (R87, R88). -/
theorem framesStarted_exec {w : Word} {s t : State} (h : exec (decodeWord w) s = .next t) :
    t.framesStarted = s.framesStarted + if s.ready = true ∧ startsFrame s.cfg w = true then 1 else 0 := by
  rcases exec_cases h with ⟨hout, word, code, detail, data, rfl⟩ | ⟨index, vals, u, hi, hr, hu, rfl⟩
  · have hnot : ¬(s.ready = true ∧ startsFrame s.cfg w = true) := by
      rintro ⟨hr, hw⟩
      obtain ⟨index, vals, hi, hlt⟩ := startsFrame_iff.1 hw
      exact absurd hlt (Nat.not_lt.2 (hout hr index vals hi))
    rw [if_neg hnot]
    rfl
  · obtain ⟨hlt, -, -, rfl⟩ := State.setLed_eq_ok.1 hu
    rw [if_pos ⟨hr, startsFrame_iff.2 ⟨index, vals, hi, hlt⟩⟩, State.framesStarted_startFrame]
    rfl

/-- Settles O29: an accepted command starts a frame exactly if it is an in-range update of a ready block, and no other step
adds a frame to the history. -/
theorem oneFramePerUpdate : Obligations.OneFramePerUpdate := by
  intro s t h
  have pop : s.popAction.framesStarted = s.framesStarted := State.framesStarted_of_frames_eq s.popAction_frames
  rcases step_cases h with ⟨host, w, ha, he⟩ | ⟨hr, rfl⟩ | ⟨-, ha, hp⟩
  · have hexec := framesStarted_exec he
    rw [State.take_ready, State.take_cfg, State.popAction_ready, State.popAction_cfg] at hexec
    rw [ha, hexec]
    exact congrArg (· + _) pop
  · have ha : s.accepted = none := by simp [State.accepted, hr]
    rw [ha]
    exact (s.popAction.framesStarted_performInReset s.nextAction).trans pop
  · rw [ha]
    exact (State.framesStarted_perform hp).trans pop

end Sys2Proof.Machine
end

section
/-! # What every step keeps of the check's outcome and of the ports (R24, R27, R52) -/

namespace Sys2Proof.Machine

/-! ## `ready` and `init_err` are what the check gives -/

theorem State.SameStrip.initOk {s t : State} (h : s.SameStrip t) (hs : s.InitOk) : t.InitOk :=
  ⟨by rw [h.ready_eq, h.cfg_eq, hs.ready_eq], by rw [h.initErr_eq, h.cfg_eq, hs.initErr_eq]⟩

/-- Every step keeps `InitOk`: only a reset release changes what it speaks of, and sets it by the check (R128). -/
theorem step_initOk {s t : State} (hs : s.InitOk) (h : step s = .next t) : t.InitOk := by
  rcases step_strip_cases h with same | ⟨c, -, same⟩ | ⟨i, vals, u, hu, same⟩
  · exact same.initOk hs
  · exact same.initOk ⟨rfl, rfl⟩
  · obtain ⟨-, -, -, rfl⟩ := State.setLed_eq_ok.1 hu
    exact same.initOk ⟨hs.ready_eq, hs.initErr_eq⟩

/-! ## The ports -/

theorem State.PortsOk.popAction {s : State} (hs : s.PortsOk) : s.popAction.PortsOk := by
  obtain ⟨hout, hwait, hblock, hreset⟩ := hs
  constructor <;> simpa [State.waitingOf, State.outstandingOf]

/-- An answer keeps the ports canonical and blocking. -/
theorem State.KeepsPorts.portsOk {s t : State} (h : s.KeepsPorts t) (hs : s.PortsOk) (hr : s.resetAsserted = false) :
    t.PortsOk := by
  have fewer : Sparse.Sorted t.outstanding ∧ ∀ host, s.outstandingOf host = none → t.outstandingOf host = none := by
    unfold State.outstandingOf
    rcases h.outstanding_cases with e | ⟨answered, e⟩
    · rw [e]
      exact ⟨hs.outstanding_sorted, fun _ => id⟩
    · rw [e]
      refine ⟨Sparse.sorted_erase _ hs.outstanding_sorted, fun host hnone => ?_⟩
      rw [Sparse.get_erase, hnone, ite_self]
  refine ⟨fewer.1, h.waiting_eq ▸ hs.waiting_sorted, fun host hw => fewer.2 host (hs.blocking host ?_), fun hr' => ?_⟩
  · rwa [State.waitingOf, h.waiting_eq] at hw
  · rw [h.resetAsserted_eq, hr] at hr'
    exact absurd hr' Bool.false_ne_true

theorem State.outstandingOf_take (s : State) (h host : HostId) (w : Word) :
    (s.take h w).outstandingOf host = if host = h then some w else s.outstandingOf host :=
  Sparse.get_put s.outstanding h host w

theorem State.waitingOf_take (s : State) (h host : HostId) (w : Word) :
    (s.take h w).waitingOf host = if host = h then none else s.waitingOf host :=
  Sparse.get_erase s.waiting h host

theorem State.waitingOf_put (s : State) (h host : HostId) (w : Word) :
    ({ s with waiting := Sparse.put s.waiting h w } : State).waitingOf host
      = if host = h then some w else s.waitingOf host :=
  Sparse.get_put s.waiting h host w

/-- Taking a host's word into service keeps the ports in order: the host waits no longer. -/
theorem State.PortsOk.take {s : State} (hs : s.PortsOk) (hr : s.resetAsserted = false) (h : HostId) (w : Word) :
    (s.take h w).PortsOk := by
  refine ⟨Sparse.sorted_put h w hs.outstanding_sorted, Sparse.sorted_erase h hs.waiting_sorted, fun host hw => ?_,
    fun hr' => absurd (hr.symm.trans hr') Bool.false_ne_true⟩
  rw [State.waitingOf_take] at hw
  rw [State.outstandingOf_take]
  split_ifs at hw ⊢ with he
  · exact absurd rfl hw
  · exact hs.blocking host hw

/-- An offer that stands keeps the ports in order: its host had nothing outstanding. -/
theorem State.PortsOk.offered {s : State} (hs : s.PortsOk) (hr : s.resetAsserted = false) {h : HostId} (w : Word)
    (hout : s.outstandingOf h = none) : ({ s with waiting := Sparse.put s.waiting h w } : State).PortsOk := by
  refine ⟨hs.outstanding_sorted, Sparse.sorted_put h w hs.waiting_sorted, fun host hw => ?_,
    fun hr' => absurd (hr.symm.trans hr') Bool.false_ne_true⟩
  rw [State.waitingOf_put] at hw
  by_cases he : host = h
  · rw [he]
    exact hout
  · rw [if_neg he] at hw
    exact hs.blocking host hw

theorem State.portsOk_assertReset (s : State) : s.assertReset.PortsOk :=
  ⟨.nil, .nil, fun _ _ => rfl, fun _ => ⟨rfl, rfl⟩⟩

theorem State.PortsOk.performInReset {s : State} (hs : s.PortsOk) (a : Action) : (s.performInReset a).PortsOk := by
  cases a with
  | releaseReset c => exact ⟨.nil, .nil, fun _ _ => rfl, fun h => absurd h Bool.false_ne_true⟩
  | _ => exact hs

/-- Every step of every agent keeps the ports canonical and blocking. -/
theorem step_portsOk {s t : State} (hs : s.PortsOk) (h : step s = .next t) : t.PortsOk := by
  have pop := hs.popAction
  rcases step_cases h with ⟨host, w, ha, he⟩ | ⟨-, rfl⟩ | ⟨hr, -, hp⟩
  · have hr : s.popAction.resetAsserted = false := s.popAction_resetAsserted.trans (State.accepted_eq_some.1 ha).1
    exact (exec_keepsPorts he).portsOk (pop.take hr host w) hr
  · exact pop.performInReset _
  · have hr' : s.popAction.resetAsserted = false := s.popAction_resetAsserted.trans hr
    rcases State.perform_ports_cases hp with keeps | ⟨h', w', -, -, hout, rfl⟩ | ⟨-, rfl⟩
    · exact keeps.portsOk pop hr'
    · exact pop.offered hr' w' hout
    · exact s.popAction.portsOk_assertReset

/-! ## Where no reset comes -/

/-- Where no reset comes, the next step asserts none: the block itself never does. -/
theorem State.NoResetComes.nextAction_ne {s : State} (h : s.NoResetComes) : s.nextAction ≠ .assertReset := by
  cases ha : s.agenda with
  | nil =>
    rw [State.nextAction_nil ha]
    rcases s.ownAction_cases with ⟨c, -, -, -, e⟩ | ⟨hold, e, -⟩ <;> rw [e] <;> nofun
  | cons a rest =>
    rw [State.nextAction_cons ha]
    rintro rfl
    exact h.2 (by simp [ha])

theorem State.agenda_popAction (s : State) : s.popAction.agenda = s.agenda.tail := by
  cases h : s.agenda <;> simp [State.popAction, h]

/-- Out of reset and without its assertion a step uses up the head of the agenda, or one draw of the block's own, and moves
neither the reset input nor what is left of the delay any further. -/
theorem step_schedule {s t : State} (hn : s.NoResetComes) (h : step s = .next t) :
    t.resetAsserted = false ∧ t.agenda = s.agenda.tail ∧ t.delay = s.popAction.delay := by
  have hr' : s.popAction.resetAsserted = false := s.popAction_resetAsserted.trans hn.1
  rw [← s.agenda_popAction]
  rcases step_cases h with ⟨host, w, -, he⟩ | ⟨hr, -⟩ | ⟨-, -, hp⟩
  · have keeps := exec_keepsPorts he
    exact ⟨keeps.resetAsserted_eq.trans hr', keeps.agenda_eq, keeps.delay_eq⟩
  · exact absurd (hn.1.symm.trans hr) Bool.false_ne_true
  · rcases State.perform_ports_cases hp with keeps | ⟨h', w', -, -, -, rfl⟩ | ⟨ha, -⟩
    · exact ⟨keeps.resetAsserted_eq.trans hr', keeps.agenda_eq, keeps.delay_eq⟩
    · exact ⟨hr', rfl, rfl⟩
    · exact absurd ha hn.nextAction_ne

theorem step_noResetComes {s t : State} (hn : s.NoResetComes) (h : step s = .next t) : t.NoResetComes := by
  obtain ⟨hr, hagenda, -⟩ := step_schedule hn h
  exact ⟨hr, fun hmem => hn.2 (List.mem_of_mem_tail (hagenda ▸ hmem))⟩

/-- A waiting command goes on waiting while it is not accepted and no reset drops it. -/
theorem step_waitingOf {s t : State} {h : HostId} {w : Word} (hn : s.NoResetComes) (hw : s.waitingOf h = some w)
    (hst : step s = .next t) (hna : s.accepted ≠ some (h, w)) : t.waitingOf h = some w := by
  have hw' : s.popAction.waitingOf h = some w := by rwa [State.waitingOf, State.popAction_waiting]
  rcases step_cases hst with ⟨host, w', ha, he⟩ | ⟨hr, -⟩ | ⟨-, -, hp⟩
  · obtain ⟨-, -, -, -, hwait⟩ := State.accepted_eq_some.1 ha
    have hne : h ≠ host := by
      rintro rfl
      exact hna (Option.some.inj (hwait.symm.trans hw) ▸ ha)
    rw [State.waitingOf, (exec_keepsPorts he).waiting_eq, ← State.waitingOf, State.waitingOf_take, if_neg hne, hw']
  · exact absurd (hn.1.symm.trans hr) Bool.false_ne_true
  · rcases State.perform_ports_cases hp with keeps | ⟨h', w', -, hfree, -, rfl⟩ | ⟨ha, -⟩
    · rw [State.waitingOf, keeps.waiting_eq, ← State.waitingOf, hw']
    · have hne : h ≠ h' := by
        rintro rfl
        exact Option.some_ne_none _ (hw'.symm.trans hfree)
      rw [State.waitingOf_put, if_neg hne, hw']
    · exact absurd ha hn.nextAction_ne

end Sys2Proof.Machine
end

section
/-! # The block goes on: a part of the invariant that every step keeps and that no step stops in -/

namespace Sys2Proof.Machine

/-- What the phase needs for the next periods to happen: a frame on the line has a bit to emit, and the owner of a frame or of
a gap has a word to be answered. -/
def State.Supplied (s : State) : Phase → Prop
  | .idle => True
  | .tx h k => s.ready = true ∧ k < s.cfg.frameBits ∧ s.outstandingOf h ≠ none
  | .gap _ none => True
  | .gap _ (some o) => s.outstandingOf o.host ≠ none

/-- The part of `State.Inv` that progress rests on. -/
structure State.Live (s : State) : Prop where
  init : s.InitOk
  ports : s.PortsOk
  supplied : s.Supplied s.phase

theorem State.Owns.outstandingOf_ne_none {s : State} {h : HostId} (ho : s.Owns h) : s.outstandingOf h ≠ none := by
  obtain ⟨index, vals, hout, -⟩ := ho
  simp [State.outstandingOf, hout, Sparse.get]

theorem State.Inv.live {s : State} (h : s.Inv) : s.Live := by
  refine ⟨h.init, h.ports, ?_⟩
  have hphase := h.phase
  unfold State.PhaseOk at hphase
  match s.phase, hphase with
  | .idle, _ => trivial
  | .tx host k, ⟨hr, hk, howns, _⟩ => exact ⟨hr, hk, howns.outstandingOf_ne_none⟩
  | .gap n none, _ => trivial
  | .gap n (some o), ⟨_, _, _, howns, _⟩ => exact howns.outstandingOf_ne_none

/-! ## No step stops -/

/-- A command of a block whose `ready` is what the check gives always has a next state: an LED of the strip has its region. -/
theorem exec_next {s : State} (hs : s.InitOk) (i : Instr) : ∃ t, exec i s = .next t := by
  by_cases hi : ∃ index vals, i = .setBrightness index vals
  · obtain ⟨index, vals, rfl⟩ := hi
    simp only [exec, execSetBrightness]
    cases hr : s.ready with
    | false => exact ⟨_, State.whenReady_of_not_ready _ _ hr⟩
    | true =>
      rw [State.whenReady_of_ready _ _ hr]
      by_cases hlt : ledIndex index < s.cfg.leds
      · have hin := regionStart_add_le hlt
        rw [← State.bufSize_of_ready hr] at hin
        rw [State.setLed_eq_ok.2 ⟨hlt, length_formatPixel vals (hs.profileValid hr), hin, rfl⟩]
        exact ⟨_, rfl⟩
      · rw [State.setLed_eq_outOfRange.2 (Nat.le_of_not_lt hlt)]
        exact ⟨_, rfl⟩
  · obtain ⟨code, data, he, -⟩ := exec_answers (i := i) s fun index vals e => hi ⟨index, vals, e⟩
    exact ⟨_, he⟩

/-- A bit of the frame of a ready block can be read (R94, R95). -/
theorem State.frameBit_of_ready {s : State} (hr : s.ready = true) {k : Nat} (hk : k < s.cfg.frameBits) :
    ∃ b, s.frameBit k = some b := by
  have hbyte : k / 8 < s.bufSize := by
    rw [State.bufSize_of_ready hr]
    unfold Config.frameBits at hk
    omega
  exact ⟨_, by rw [State.frameBit, State.memByte, if_pos hbyte, Option.map_some]⟩

theorem State.period_next {s : State} (hs : s.Supplied s.phase) (hold : Bool) : ∃ t, s.period hold = .next t := by
  unfold State.period
  cases hp : s.phase with
  | idle => exact ⟨_, rfl⟩
  | tx h k =>
    rw [hp] at hs
    obtain ⟨hr, hk, -⟩ := hs
    obtain ⟨b, hb⟩ := State.frameBit_of_ready hr hk
    simp only [State.txPeriod, hb]
    split_ifs <;> exact ⟨_, rfl⟩
  | gap n owner =>
    simp only [State.gapPeriod]
    split_ifs
    · exact ⟨_, rfl⟩
    · cases owner with
      | none => exact ⟨_, rfl⟩
      | some o =>
        rw [hp] at hs
        obtain ⟨w, hw⟩ := Option.ne_none_iff_exists'.1 hs
        rw [State.gapEnd, show s.lowPeriod.outstandingOf o.host = some w from hw]
        exact ⟨_, rfl⟩

theorem State.Supplied.congr {s t : State} {p : Phase} (h : s.Supplied p) (hr : t.ready = s.ready) (hc : t.cfg = s.cfg)
    (ho : t.outstanding = s.outstanding) : t.Supplied p := by
  match p with
  | .idle => trivial
  | .tx host k => simpa only [State.Supplied, State.outstandingOf, hr, hc, ho] using h
  | .gap n none => trivial
  | .gap n (some o) => simpa only [State.Supplied, State.outstandingOf, ho] using h

theorem State.Supplied.popAction {s : State} (h : s.Supplied s.phase) : s.popAction.Supplied s.popAction.phase := by
  rw [State.popAction_phase]
  exact h.congr (by simp) (by simp) (by simp)

/-- From a live state every step of every agent has a next state. -/
theorem State.Live.step_next {s : State} (hs : s.Live) : ∃ t, step s = .next t := by
  cases hr : s.resetAsserted with
  | true => exact ⟨_, step_in_reset hr⟩
  | false =>
    rcases ha : s.accepted with _ | ⟨h, w⟩
    · rw [step_of_perform hr ha]
      cases s.nextAction with
      | period hold => exact State.period_next hs.supplied.popAction hold
      | _ => exact ⟨_, rfl⟩
    · rw [step_of_accepted ha]
      exact exec_next ((s.sameStrip_popAction.trans (s.popAction.sameStrip_take h w)).initOk hs.init) _

/-! ## Every step keeps it -/

/-- The frame of a ready block has a bit as soon as it has an LED. -/
theorem frameBits_pos {c : Config} (hv : c.profileValid = true) {i : Nat} (hi : i < c.leds) : 0 < c.frameBits := by
  have hch := (Config.channels_pos hv).1
  have hpix : 0 < c.pixelSymbolSize := by
    rw [Config.pixelSymbolSize_of_valid hv]
    omega
  exact Nat.mul_pos (by decide) (Nat.mul_pos (Nat.zero_lt_of_lt hi) hpix)

/-- A command taken into service in `Idle` leaves the engine `Idle`, or starts a frame that has a bit and an owner. -/
theorem exec_supplied {i : Instr} {s t : State} {w : Word} (hinit : s.InitOk) (hidle : s.phase = .idle)
    (hw : s.outstandingOf s.serving = some w) (h : exec i s = .next t) : t.Supplied t.phase := by
  rcases exec_cases h with ⟨-, w', code, detail, data, rfl⟩ | ⟨index, vals, u, -, hr, hu, rfl⟩
  · rw [State.respond_phase, hidle]
    trivial
  · obtain ⟨hlt, -, -, rfl⟩ := State.setLed_eq_ok.1 hu
    exact ⟨hr, frameBits_pos (hinit.profileValid hr) hlt, fun hnone => Option.some_ne_none w (hw.symm.trans hnone)⟩

theorem State.Supplied.period {s t : State} {hold : Bool} (hs : s.Supplied s.phase) (ht : s.period hold = .next t) :
    t.Supplied t.phase := by
  rcases State.period_cases ht with ⟨-, rfl⟩ | ⟨h, k, b, hp, -, -, rfl⟩ | ⟨n, o, hp, -, rfl⟩
    | ⟨n, -, rfl⟩ | ⟨n, o, w, -, -, rfl⟩
  · exact hs.congr rfl rfl rfl
  · rw [hp] at hs
    obtain ⟨hr, -, hout⟩ := hs
    rcases s.emitBit_cases h k b with ⟨hk, e⟩ | ⟨-, e⟩
    · rw [e]
      exact ⟨hr, hk, hout⟩
    · rw [e]
      exact hout
  · rw [hp] at hs
    cases o with
    | none => trivial
    | some o => exact hs
  · trivial
  · trivial

theorem State.Supplied.transportFault {s : State} (hs : s.Supplied s.phase) (c : Byte) :
    (s.transportFault c).Supplied (s.transportFault c).phase := by
  rcases s.transportFault_cases c with e | ⟨h, k, hp, e⟩ | ⟨n, h, hp, e⟩
  · rw [e]
    exact hs
  · rw [hp] at hs
    rw [e]
    exact hs.2.2
  · rw [hp] at hs
    rw [e]
    exact hs

theorem State.Supplied.perform {s t : State} {a : Action} (hs : s.Supplied s.phase) (ht : s.perform a = .next t) :
    t.Supplied t.phase := by
  cases a with
  | period hold => exact hs.period ht
  | fault c => cases ht; exact hs.transportFault c
  | offer h w =>
    cases ht
    rcases s.offer_cases h w with e | ⟨-, -, e⟩
    · rw [e]
      exact hs
    · rw [e]
      exact hs.congr rfl rfl rfl
  | assertReset => cases ht; trivial
  | read h off width => cases ht; exact hs.congr rfl rfl rfl
  | accept h => cases ht; exact hs
  | releaseReset c => cases ht; exact hs

/-- Under reset the engine is `Idle`, and a release starts at most the gap that nobody owns (R129). -/
theorem State.supplied_performInReset {s : State} (hidle : s.phase = .idle) (a : Action) :
    (s.performInReset a).Supplied (s.performInReset a).phase := by
  have idle : s.Supplied s.phase := by rw [hidle]; trivial
  cases a with
  | releaseReset c =>
    change State.Supplied _ (if c.initReady then .gap c.latch none else .idle)
    split_ifs <;> trivial
  | _ => exact idle

/-- Every step of every agent keeps a live state live. -/
theorem step_live {s t : State} (hs : s.Live) (h : step s = .next t) : t.Live := by
  refine ⟨step_initOk hs.init h, step_portsOk hs.ports h, ?_⟩
  have pop := hs.supplied.popAction
  rcases step_cases h with ⟨host, w, ha, he⟩ | ⟨hr, rfl⟩ | ⟨-, -, hp⟩
  · obtain ⟨-, -, hidle, -, -⟩ := State.accepted_eq_some.1 ha
    have hinit := (s.sameStrip_popAction.trans (s.popAction.sameStrip_take host w)).initOk hs.init
    have hserved : (s.popAction.take host w).outstandingOf host = some w := by rw [State.outstandingOf_take, if_pos rfl]
    exact exec_supplied hinit (s.popAction_phase.trans hidle) hserved he
  · exact State.supplied_performInReset (s.popAction_phase.trans (hs.ports.reset_idle hr).1) _
  · exact pop.perform hp

end Sys2Proof.Machine
end

section
/-! # A waiting command is accepted (R53) -/

namespace Sys2Proof.Machine

/-- The periods at most that still pass before the engine is `Idle`, start latency not counted. -/
def Phase.periodsLeft (c : Config) : Phase → Nat
  | .idle => 0
  | .gap n _ => n + 1
  | .tx _ k => (c.frameBits - k) + (c.latch + 1)

/-- What grows less with every step, lexicographically: the inputs to come, the commands waiting, the periods before the
engine is `Idle`, the periods before the block's own next choice. -/
def State.waitLeft (s : State) : Nat ×ₗ Nat ×ₗ Nat ×ₗ Nat :=
  toLex (s.agenda.length, toLex (s.waiting.length, toLex (s.phase.periodsLeft s.cfg, s.delayLeft)))

theorem State.waitLeft_lt_iff {s t : State} : t.waitLeft < s.waitLeft ↔
    t.agenda.length < s.agenda.length ∨ t.agenda.length = s.agenda.length ∧ (t.waiting.length < s.waiting.length ∨
      t.waiting.length = s.waiting.length ∧ (t.phase.periodsLeft t.cfg < s.phase.periodsLeft s.cfg ∨
        t.phase.periodsLeft t.cfg = s.phase.periodsLeft s.cfg ∧ t.delayLeft < s.delayLeft)) := by
  simp only [State.waitLeft, Prod.Lex.toLex_lt_toLex]

theorem Sparse.length_erase_lt {α : Type} {m : List (Nat × α)} {a : Nat} {v : α} (h : Sparse.get m a = some v) :
    (Sparse.erase m a).length < m.length :=
  List.length_filter_lt_length_iff_exists.2 ⟨(a, v), Sparse.mem_of_get h, by simp⟩

/-- An acceptance takes one command off its port. -/
theorem step_accepted_waiting_lt {s t : State} {h : HostId} {w : Word} (ha : s.accepted = some (h, w))
    (hst : step s = .next t) : t.waiting.length < s.waiting.length := by
  rw [step_of_accepted ha] at hst
  obtain ⟨-, -, -, -, hwait⟩ := State.accepted_eq_some.1 ha
  rw [(exec_keepsPorts hst).waiting_eq, State.take_waiting, State.popAction_waiting]
  exact Sparse.length_erase_lt hwait

/-- The block's own acceptance is enabled. -/
theorem State.accepted_of_mem_waiting {s : State} (hs : s.PortsOk) (hr : s.resetAsserted = false) (hidle : s.phase = .idle)
    {c : HostId × Word} (hc : c ∈ s.waiting) (ha : s.nextAction = .accept c.1) : s.accepted = some c := by
  have hwait : s.waitingOf c.1 = some c.2 := Sparse.get_of_mem hs.waiting_sorted hc
  have hout := hs.blocking c.1 (hwait ▸ Option.some_ne_none _)
  exact State.accepted_eq_some.2 ⟨hr, ha, hidle, hout, hwait⟩

/-- A period of the block's own, with a command waiting: less of the way to `Idle` is left, or the line is held low and less of
the delay is left. -/
theorem own_period_closer {s t : State} {hold : Bool} (hs : s.Supplied s.phase) (hagenda : s.agenda = [])
    (hwaits : s.waiting ≠ []) (hidle : s.phase = .idle → s.delayLeft ≠ 0)
    (hhold : hold = true → s.delayLeft ≠ 0) (hdelay : t.delay = s.popAction.delay)
    (ht : s.popAction.period hold = .next t) :
    t.phase.periodsLeft t.cfg < s.phase.periodsLeft s.cfg
    ∨ t.phase.periodsLeft t.cfg = s.phase.periodsLeft s.cfg ∧ t.delayLeft < s.delayLeft := by
  have hcfg : t.cfg = s.cfg := (State.sameStrip_period ht).cfg_eq.trans s.popAction_cfg
  have less (hc : s.choosing = true) (hd : s.delayLeft ≠ 0) : t.delayLeft < s.delayLeft := by
    obtain ⟨d, hd⟩ := Nat.exists_eq_succ_of_ne_zero hd
    rw [State.delayLeft_of_delay (hdelay.trans (State.delayLeft_popAction hagenda hc hd)), hd]
    exact Nat.lt_succ_self d
  rcases State.period_cases ht with ⟨hp, rfl⟩ | ⟨h, k, b, hp, -, -, rfl⟩ | ⟨n, o, hp, hn, rfl⟩
    | ⟨n, hp, rfl⟩ | ⟨n, o, w, hp, -, rfl⟩
    <;> rw [State.popAction_phase] at hp
  · refine .inr ⟨by simp, ?_⟩
    rcases hp with hp | ⟨h, hp, hheld⟩
    · exact less (by simpa [State.choosing, hp] using hwaits) (hidle hp)
    · exact less (by simp [State.choosing, hp]) (hhold hheld)
  · left
    rw [hp] at hs
    obtain ⟨-, hk, -⟩ := hs
    rw [hcfg, hp]
    rcases s.popAction.emitBit_cases h k b with ⟨-, e⟩ | ⟨-, e⟩
    · rw [e]
      simp only [State.withPhase_phase, Phase.periodsLeft]
      omega
    · rw [e]
      simp only [State.withPhase_phase, State.popAction_cfg, Phase.periodsLeft]
      omega
  · left
    rw [hp]
    simp only [State.withPhase_phase, Phase.periodsLeft]
    omega
  · left
    rw [hp]
    exact Nat.succ_pos n
  · left
    rw [hp]
    exact Nat.succ_pos n

/-- With a command waiting and no reset to come, every step brings the block closer to accepting it. -/
theorem step_waitLeft_lt {s t : State} (hs : s.Live) (hn : s.NoResetComes) (hwaits : s.waiting ≠ [])
    (h : step s = .next t) : t.waitLeft < s.waitLeft := by
  obtain ⟨-, hagenda, hdelay⟩ := step_schedule hn h
  rw [State.waitLeft_lt_iff]
  cases ha : s.agenda with
  | cons a rest =>
    left
    rw [hagenda, ha]
    exact Nat.lt_succ_self rest.length
  | nil =>
    refine .inr ⟨by rw [hagenda, ha, List.tail_nil], ?_⟩
    rcases s.ownAction_cases with ⟨c, hc, hidle, -, hown⟩ | ⟨hold, hown, hhold, -, hidle⟩
    · have hacc := State.accepted_of_mem_waiting hs.ports hn.1 hidle hc ((State.nextAction_nil ha).trans hown)
      exact .inl (step_accepted_waiting_lt hacc h)
    · have hnext : s.nextAction = .period hold := (State.nextAction_nil ha).trans hown
      have hnone : s.accepted = none := State.accepted_eq_none fun host => by rw [hnext]; nofun
      rw [step_of_perform hn.1 hnone, hnext] at h
      refine .inr ⟨?_, own_period_closer hs.supplied ha hwaits (hidle · hwaits) (fun e => ?_) hdelay h⟩
      · rw [(State.period_keepsPorts h).waiting_eq, State.popAction_waiting]
      · obtain ⟨-, -, hleft⟩ := hhold e
        exact hleft

theorem State.waiting_ne_nil {s : State} {h : HostId} {w : Word} (hw : s.waitingOf h = some w) : s.waiting ≠ [] :=
  List.ne_nil_of_mem (Sparse.mem_of_get hw)

/-- Where no reset comes, a waiting command is accepted: until then every step keeps it waiting and brings it closer. -/
theorem State.Live.eventuallyAccepts {s : State} {h : HostId} {w : Word} (hs : s.Live) (hn : s.NoResetComes)
    (hw : s.waitingOf h = some w) : s.EventuallyAccepts h w := by
  by_cases ha : s.accepted = some (h, w)
  · exact ⟨0, s, rfl, ha⟩
  · obtain ⟨t, ht⟩ := hs.step_next
    have closer := step_waitLeft_lt hs hn (State.waiting_ne_nil hw) ht
    obtain ⟨n, u, hrun, hu⟩ := (step_live hs ht).eventuallyAccepts (step_noResetComes hn ht) (step_waitingOf hn hw ht ha)
    exact ⟨n + 1, u, (core_run_succ n ht).trans hrun, hu⟩
termination_by s.waitLeft
decreasing_by exact closer

/-- Settles O57: in `Idle` a waiting command's acceptance is enabled because its host has none outstanding; no other step takes
it off its port; and the steps before its acceptance are a descent in `State.waitLeft`. -/
theorem waitingCommandIsAccepted : Obligations.WaitingCommandIsAccepted := by
  intro s h w hinv hn hw
  refine ⟨fun hidle rest => ?_, fun t ht hna => step_waitingOf hn hw ht hna, hinv.live.eventuallyAccepts hn hw⟩
  have hout : s.outstandingOf h = none := hinv.ports.blocking h (hw ▸ Option.some_ne_none w)
  exact State.accepted_eq_some.2 ⟨hn.1, rfl, hidle, hout, hw⟩

end Sys2Proof.Machine
end

section
/-! # A command word and the term it decodes to (R59, R67) -/

namespace Sys2Proof

/-! ## A word is its fields, side by side (R59) -/

theorem headByte_fields (w : Word) : headByte (opField w) (rsvField w) = w.extractLsb' 0 8 :=
  BitVec.extractLsb'_append_extractLsb'_eq_extractLsb' rfl

theorem encodeVals_valsField (w : Word) : encodeVals (valsField w) = w.extractLsb' 32 32 := by
  have wb : vwField w ++ vbField w = w.extractLsb' 48 16 := BitVec.extractLsb'_append_extractLsb'_eq_extractLsb' rfl
  have wbg : w.extractLsb' 48 16 ++ vgField w = w.extractLsb' 40 24 :=
    BitVec.extractLsb'_append_extractLsb'_eq_extractLsb' rfl
  have wbgr : w.extractLsb' 40 24 ++ vrField w = w.extractLsb' 32 32 :=
    BitVec.extractLsb'_append_extractLsb'_eq_extractLsb' rfl
  calc encodeVals (valsField w)
      = vwField w ++ vbField w ++ vgField w ++ vrField w := rfl
    _ = w.extractLsb' 32 32 := by rw [wb, wbg, wbgr]

theorem encodeVals_append_indexField (w : Word) : encodeVals (valsField w) ++ indexField w = restField w := by
  rw [encodeVals_valsField]
  exact BitVec.extractLsb'_append_extractLsb'_eq_extractLsb' rfl

theorem encodeHiField_append_operands (w : Word) : encodeHiField w ++ vrField w ++ indexField w = restField w := by
  have hi : encodeHiField w ++ vrField w = w.extractLsb' 32 32 := BitVec.extractLsb'_append_extractLsb'_eq_extractLsb' rfl
  rw [hi]
  exact BitVec.extractLsb'_append_extractLsb'_eq_extractLsb' rfl

theorem restField_append_headByte (w : Word) : restField w ++ headByte (opField w) (rsvField w) = w := by
  rw [headByte_fields]
  exact BitVec.extractLsb'_append_extractLsb'

/-- Settles O3: the word is its fields appended, and appended fields add up, each shifted by the widths below it. -/
theorem fieldsMakeTheWord : Obligations.FieldsMakeTheWord := by
  intro w
  have value : w.toNat = _ := congrArg BitVec.toNat (restField_append_headByte w).symm
  have rest := congrArg BitVec.toNat (encodeVals_append_indexField w).symm
  rw [toNat_append_eq_add, toNat_encodeVals] at rest
  rw [toNat_above_headByte, rest] at value
  simp only [valsField] at value
  omega

/-! ## Decoding, branch by branch (R67) -/

/-- What a word decodes to, with the tests that select it. -/
theorem decodeWord_cases (w : Word) :
    (rsvField w ≠ 0 ∧ decodeWord w = decodeIllegal w)
    ∨ rsvField w = 0 ∧
      ((opField w = 0 ∧ decodeWord w = .nop (restField w))
      ∨ (opField w = 1 ∧ decodeWord w = .encode (vrField w) (indexField w) (encodeHiField w))
      ∨ (opField w = 2 ∧ decodeWord w = .format (valsField w) (indexField w))
      ∨ (opField w = 3 ∧ decodeWord w = .setBrightness (indexField w) (valsField w))
      ∨ (opField w ∉ [0, 1, 2, 3] ∧
          (((opField w).toNat ≤ 7 ∧ decodeWord w = .reserved4to7 (opField w) (restField w))
          ∨ (7 < (opField w).toNat ∧ decodeWord w = .reserved8toF (opField w) (restField w))))) := by
  by_cases hrsv : rsvField w = 0
  · refine .inr ⟨hrsv, ?_⟩
    rw [decodeWord, if_neg (not_not.2 hrsv)]
    split_ifs <;> simp_all
  · exact .inl ⟨hrsv, if_pos hrsv⟩

/-- Sorting an illegal word keeps every bit of it. -/
theorem encode_decodeIllegal (w : Word) : encode (decodeIllegal w) = w := by
  unfold decodeIllegal
  split_ifs <;> exact restField_append_headByte w

theorem restField_append_headByte_of_fields {w : Word} {op : BitVec 4} (hrsv : rsvField w = 0) (hop : opField w = op) :
    restField w ++ headByte op 0 = w := by
  rw [← hop, ← hrsv, restField_append_headByte]

/-- Decoding keeps every bit: the decoded term's word is the word. -/
theorem encode_decodeWord (w : Word) : encode (decodeWord w) = w := by
  rcases decodeWord_cases w with
    ⟨-, e⟩ | ⟨hrsv, ⟨hop, e⟩ | ⟨hop, e⟩ | ⟨hop, e⟩ | ⟨hop, e⟩ | ⟨-, ⟨-, e⟩ | ⟨-, e⟩⟩⟩ <;> rw [e]
  · exact encode_decodeIllegal w
  · exact restField_append_headByte_of_fields hrsv hop
  · rw [encode, encodeHiField_append_operands, restField_append_headByte_of_fields hrsv hop]
  · rw [encode, encodeVals_append_indexField, restField_append_headByte_of_fields hrsv hop]
  · rw [encode, encodeVals_append_indexField, restField_append_headByte_of_fields hrsv hop]
  · exact restField_append_headByte_of_fields hrsv rfl
  · exact restField_append_headByte_of_fields hrsv rfl

end Sys2Proof
end

section
/-! # What the decoded command answers (R64 to R67) and which fields it reads (R66) -/

namespace Sys2Proof.Machine

/-! ## The `ready` test comes first -/

/-- Every command makes the `ready` test before anything else. -/
theorem exec_eq_whenReady (i : Instr) (s : State) : ∃ body, exec i s = s.whenReady (encode i) body := by
  cases i <;> exact ⟨_, rfl⟩

theorem exec_of_not_ready (i : Instr) {s : State} (hr : s.ready = false) :
    exec i s = .next (s.raise (encode i) .notReady 0) := by
  obtain ⟨body, he⟩ := exec_eq_whenReady i s
  rw [he, State.whenReady_of_not_ready _ _ hr]

/-! ## What each constructor means, as an answer for its word -/

theorem exec_nop (ignored : BitVec 56) (s : State) :
    exec (.nop ignored) s =
      s.whenReady (encode (.nop ignored)) (.next (s.respond (encode (.nop ignored)) .ok 0 zeros)) := rfl

theorem exec_encode (value : Byte) (lo hi : BitVec 24) (s : State) :
    exec (.encode value lo hi) s =
      s.whenReady (encode (.encode value lo hi))
        (.next (s.respond (encode (.encode value lo hi)) .ok 0 (padData (encodeSymbols s.cfg value)))) := rfl

theorem exec_format (vals : ChannelValues) (lo : BitVec 24) (s : State) :
    exec (.format vals lo) s =
      s.whenReady (encode (.format vals lo))
        (.next (s.respond (encode (.format vals lo)) .ok 0 (padData (formatPixel s.cfg vals)))) := rfl

theorem exec_reserved4to7 (op : BitVec 4) (rest : BitVec 56) (s : State) :
    exec (.reserved4to7 op rest) s = s.answerIllegal (encode (.reserved4to7 op rest)) := rfl

theorem exec_reserved8toF (op : BitVec 4) (rest : BitVec 56) (s : State) :
    exec (.reserved8toF op rest) s = s.answerIllegal (encode (.reserved8toF op rest)) := rfl

theorem exec_decodeIllegal (w : Word) (s : State) : exec (decodeIllegal w) s = s.answerIllegal w := by
  have hw := encode_decodeIllegal w
  unfold decodeIllegal at hw ⊢
  split_ifs at hw ⊢ <;> exact congrArg s.answerIllegal hw

theorem State.answerIllegal_of_ready {s : State} (w : Word) (hr : s.ready = true) :
    s.answerIllegal w = .next (s.raise w .illegalCommand 0) := State.whenReady_of_ready _ _ hr

/-! ## The decoder's order of tests -/

/-- Settles O6: the decoder's cases in their order, each decoded term answering for the word itself. -/
theorem decodeSelectsInOrder : Obligations.DecodeSelectsInOrder := by
  intro s w
  have hw := encode_decodeWord w
  cases hr : s.ready with
  | false => rw [if_pos rfl, exec_of_not_ready _ hr, hw]
  | true =>
    rw [if_neg (by decide)]
    rcases decodeWord_cases w with
      ⟨(hrsv : w.extractLsb' 4 4 ≠ 0), e⟩
      | ⟨(hrsv : w.extractLsb' 4 4 = 0), ⟨(hop : w.extractLsb' 0 4 = 0), e⟩ | ⟨(hop : w.extractLsb' 0 4 = 1), e⟩
        | ⟨(hop : w.extractLsb' 0 4 = 2), e⟩ | ⟨(hop : w.extractLsb' 0 4 = 3), e⟩
        | ⟨(hop : w.extractLsb' 0 4 ∉ [0, 1, 2, 3]), e⟩⟩
    · rw [e, if_pos hrsv, exec_decodeIllegal, State.answerIllegal_of_ready w hr]
    all_goals rw [if_neg (not_not.2 hrsv)]
    · rw [e] at hw
      rw [if_pos hop, e, exec_nop, hw, State.whenReady_of_ready _ _ hr]
    · rw [e] at hw
      rw [hop, if_neg (by decide), if_pos rfl, e, exec_encode, hw, State.whenReady_of_ready _ _ hr]
      rfl
    · rw [e] at hw
      rw [hop, if_neg (by decide), if_neg (by decide), if_pos rfl, e, exec_format, hw, State.whenReady_of_ready _ _ hr]
      rfl
    · rw [hop, if_neg (by decide), if_neg (by decide), if_neg (by decide), if_pos rfl, e]
      rfl
    · simp only [List.mem_cons, List.not_mem_nil, or_false, not_or] at hop
      obtain ⟨h0, h1, h2, h3⟩ := hop
      rw [if_neg h0, if_neg h1, if_neg h2, if_neg h3]
      rcases e with ⟨-, e⟩ | ⟨-, e⟩ <;> rw [e] at hw <;> rw [e]
      · rw [exec_reserved4to7, hw, State.answerIllegal_of_ready w hr]
      · rw [exec_reserved8toF, hw, State.answerIllegal_of_ready w hr]

/-- Settles O19: both kinds of word fall through the decoder's tests (O6) to its two `ILLEGAL_COMMAND` ends. -/
theorem illegalWordsByBits : Obligations.IllegalWordsByBits := by
  intro w s hr hbits
  have raised : exec (decodeWord w) s = .next (s.raise w .illegalCommand 0) := by
    rw [decodeSelectsInOrder, if_neg (by simp [hr])]
    rcases hbits with hrsv | ⟨hrsv, hop, -⟩
    · rw [if_pos hrsv]
    · have ne (k : BitVec 4) (hk : k.toNat < 4) : w.extractLsb' 0 4 ≠ k := fun e => absurd (e ▸ hop) (Nat.not_le.2 hk)
      rw [if_neg (not_not.2 hrsv), if_neg (ne 0 (by decide)), if_neg (ne 1 (by decide)), if_neg (ne 2 (by decide)),
        if_neg (ne 3 (by decide))]
  exact raised

/-! ## Fields a command does not use (R66) -/

/-- A command that only answers, `ready` or not, gives one code and one data whatever its word. -/
theorem State.whenReady_respond (s : State) (w : Word) (code : RespCode) (data : List Byte) :
    s.whenReady w (.next (s.respond w code 0 data)) =
      .next (s.finish s.serving w (if s.ready then code else .notReady) 0 (if s.ready then data else zeros)) := by
  cases hr : s.ready with
  | false => rw [State.whenReady_of_not_ready _ _ hr]; rfl
  | true => rw [State.whenReady_of_ready _ _ hr]; rfl

/-- Values of roles that are not in the order are not read. -/
theorem wireVals_congr {c : Config} {vals vals' : ChannelValues} (h : ∀ q ∈ c.wireOrder, valOf vals' q = valOf vals q) :
    wireVals c vals' = wireVals c vals := List.map_congr_left h

theorem formatPixel_congr {c : Config} {vals vals' : ChannelValues} (h : ∀ q ∈ c.wireOrder, valOf vals' q = valOf vals q) :
    formatPixel c vals' = formatPixel c vals := congrArg (formatWire c) (wireVals_congr h)

theorem State.setLed_congr {s : State} (i : Nat) {vals vals' : ChannelValues}
    (h : ∀ q ∈ s.cfg.wireOrder, valOf vals' q = valOf vals q) : s.setLed i vals' = s.setLed i vals := by
  rw [State.setLed, State.setLed, wireVals_congr h, formatPixel_congr h]

theorem exec_setBrightness_outOfRange {index : BitVec 24} (vals : ChannelValues) {s : State} (hr : s.ready = true)
    (hi : s.cfg.leds ≤ ledIndex index) :
    exec (.setBrightness index vals) s = .next (s.raise (encode (.setBrightness index vals)) .outOfRange 0) := by
  rw [exec, execSetBrightness, State.whenReady_of_ready _ _ hr, State.setLed_eq_outOfRange.2 hi]

/-- An in-range SET_BRIGHTNESS records no answer yet, so what it does depends on its values only through `set_led`. -/
theorem exec_setBrightness_congr {index : BitVec 24} {vals vals' : ChannelValues} {s : State} (hr : s.ready = true)
    (hi : ledIndex index < s.cfg.leds) (h : s.setLed (ledIndex index) vals' = s.setLed (ledIndex index) vals) :
    exec (.setBrightness index vals') s = exec (.setBrightness index vals) s := by
  simp only [exec, execSetBrightness, State.whenReady_of_ready _ _ hr, h]
  rcases hset : s.setLed (ledIndex index) vals with (_ | a) | t
  · exact absurd (State.setLed_eq_outOfRange.1 hset) (Nat.not_le.2 hi)
  · rfl
  · rfl

/-- Settles O21: an answering command's code and data do not depend on its ignored fields; FORMAT and an in-range
SET_BRIGHTNESS read the values in wire order only; an error's data are zeros. -/
theorem ignoredFieldsIgnored : Obligations.IgnoredFieldsIgnored := by
  intro s
  refine ⟨?nop, ?encode, ?format, ?inRange, ?error⟩
  case nop =>
    refine ⟨if s.ready then .ok else .notReady, fun ignored => ?_⟩
    rw [exec_nop, State.whenReady_respond, ite_self]
  case encode => exact fun value => ⟨_, _, fun lo hi => s.whenReady_respond _ .ok (padData (encodeSymbols s.cfg value))⟩
  case format =>
    intro vals
    refine ⟨if s.ready then .ok else .notReady, if s.ready then padData (formatPixel s.cfg vals) else zeros,
      fun vals' lo h => ?_⟩
    rw [exec_format, formatPixel_congr h, State.whenReady_respond]
  case inRange =>
    intro index vals vals' hr hi h
    exact exec_setBrightness_congr hr (ledIndex_eq index ▸ hi) (State.setLed_congr _ h)
  case error =>
    intro index h
    cases hr : s.ready with
    | false => exact ⟨.notReady, fun vals => exec_of_not_ready _ hr⟩
    | true =>
      have hi : s.cfg.leds ≤ ledIndex index := ledIndex_eq index ▸ h.resolve_left (by simp [hr])
      exact ⟨.outOfRange, fun vals => exec_setBrightness_outOfRange vals hr hi⟩

end Sys2Proof.Machine
end

section
/-! # Pseudo-instructions (R71) -/

namespace Sys2Proof.Machine

/-- Settles O7: `assemble` sends a pseudo-instruction to what it sends its expansion to. -/
theorem pseudoInstructionsExpand : Obligations.PseudoInstructionsExpand :=
  ⟨fun _ _ _ _ => rfl, fun _ _ _ _ _ => rfl, fun _ => rfl, rfl⟩

end Sys2Proof.Machine
end

section
/-! # The symbol encoder bit by bit, and decode as its inverse (R72, R73, R75) -/

namespace Sys2Proof.Machine

theorem getElem?_wireBits (v : Byte) {j : Nat} (hj : j < 8) : (wireBits v)[j]? = some (v.getLsbD (7 - j)) := by
  interval_cases j <;> rfl

/-- Symbol `j` of `encode(v)` is that of source bit `7-j` (R72). -/
theorem getElem?_encodeSymbols (c : Config) (v : Byte) {j : Nat} (hj : j < 8) :
    (encodeSymbols c v)[j]? = some (symbolOf c (v.getLsbD (7 - j))) := by
  rw [encodeSymbols_eq_map_wireBits, List.getElem?_map, getElem?_wireBits v hj, Option.map_some]

/-- Settles O9: R72's loop emits the symbols of the bits in wire order, and a valid profile has eight bits a channel. -/
theorem encodeBitByBit : Obligations.EncodeBitByBit := by
  intro c v
  refine ⟨length_encodeSymbols c v, fun hv => ?_, fun j hj => getElem?_encodeSymbols c v hj⟩
  obtain ⟨hbits, -⟩ := (Config.profileValid_iff c).1 hv
  rw [length_encodeSymbols, hbits]
  rfl

/-- The symbols of source bits are the two of the profile. -/
theorem mem_range_symbolOf {c : Config} {b : Byte} :
    b ∈ Set.range (symbolOf c) ↔ b = c.zeroSymbol ∨ b = c.oneSymbol :=
  Bool.exists_bool.trans (or_congr eq_comm eq_comm)

theorem symbolOf_eq_oneSymbol_iff {c : Config} (hne : c.zeroSymbol ≠ c.oneSymbol) (b : Bool) :
    symbolOf c b = c.oneSymbol ↔ b = true := by
  cases b <;> simp [symbolOf, hne]

/-- A byte of `encode(v)` is one of the two symbols. -/
theorem eq_zero_or_one_of_mem_encodeSymbols {c : Config} {v b : Byte} (h : b ∈ encodeSymbols c v) :
    b = c.zeroSymbol ∨ b = c.oneSymbol := by
  rw [encodeSymbols_eq_map_wireBits] at h
  obtain ⟨bit, -, rfl⟩ := List.mem_map.1 h
  exact mem_range_symbolOf.1 ⟨bit, rfl⟩

theorem symbolOf_of_bitOfSymbol {c : Config} {b : Byte} {bit : Bool} (h : bitOfSymbol c b = some bit) :
    symbolOf c bit = b := by
  unfold bitOfSymbol at h
  split at h
  next hone => obtain rfl := Option.some.inj h; exact hone.symm
  next =>
    split at h
    next hzero => obtain rfl := Option.some.inj h; exact hzero.symm
    next => cases h

/-- A sequence that stands for source bits is the symbols of those bits. -/
theorem map_symbolOf_of_bitsOfSymbols {c : Config} {s : List Byte} {bits : List Bool}
    (h : bitsOfSymbols c s = some bits) : bits.map (symbolOf c) = s := by
  induction s generalizing bits with
  | nil => obtain rfl := Option.some.inj h; rfl
  | cons b bs ih =>
    unfold bitsOfSymbols at h
    split at h
    next bit rest hb hbs =>
      obtain rfl := Option.some.inj h
      rw [List.map_cons, symbolOf_of_bitOfSymbol hb, ih hbs]
    next => cases h

/-- A sequence of symbols is the symbols of some source bits. -/
theorem mem_range_map_symbolOf {c : Config} {s : List Byte} (h : ∀ b ∈ s, b = c.zeroSymbol ∨ b = c.oneSymbol) :
    s ∈ Set.range (List.map (symbolOf c)) := by
  rw [Set.range_list_map]
  exact fun b hb => mem_range_symbolOf.2 (h b hb)

/-- Eight bits are the bits in wire order of the byte they make. -/
theorem wireBits_byteOfBits : ∀ {bits : List Bool}, bits.length = 8 → wireBits (byteOfBits bits) = bits
  | [b7, b6, b5, b4, b3, b2, b1, b0], _ => by
    revert b7 b6 b5 b4 b3 b2 b1 b0
    decide

/-- Eight source bits' symbols are the encoding of the byte the bits make. -/
theorem encodeSymbols_byteOfBits (c : Config) {bits : List Bool} (h : bits.length = 8) :
    encodeSymbols c (byteOfBits bits) = bits.map (symbolOf c) := by
  rw [encodeSymbols_eq_map_wireBits, wireBits_byteOfBits h]

/-- `decode` is the partial inverse of `encode`: defined on encodings only, and there their source byte (R75). -/
theorem decodeSymbols_eq_some_iff {c : Config} (hne : c.zeroSymbol ≠ c.oneSymbol) {s : List Byte} {v : Byte} :
    decodeSymbols c s = some v ↔ encodeSymbols c v = s := by
  constructor
  · intro h
    unfold decodeSymbols at h
    split at h
    next hlen =>
      obtain ⟨bits, hbits, rfl⟩ := Option.map_eq_some_iff.1 h
      obtain rfl := map_symbolOf_of_bitsOfSymbols hbits
      exact encodeSymbols_byteOfBits c (by rwa [List.length_map] at hlen)
    next => cases h
  · rintro rfl
    exact decodeSymbols_encodeSymbols hne v

/-- Settles O10: `decode` is the partial inverse of `encode`, whose values are the sequences of eight symbols. -/
theorem symbolRoundTrip : Obligations.SymbolRoundTrip := by
  intro c hne
  refine ⟨decodeSymbols_encodeSymbols hne, ?undefined, ?defined⟩
  case undefined =>
    intro s hbad
    refine Option.eq_none_iff_forall_ne_some.2 fun v hv => ?_
    obtain rfl := (decodeSymbols_eq_some_iff hne).1 hv
    rcases hbad with hlen | ⟨b, hb, hzero, hone⟩
    · exact hlen (length_encodeSymbols c v)
    · exact (eq_zero_or_one_of_mem_encodeSymbols hb).elim hzero hone
  case defined =>
    intro s hlen hsym
    obtain ⟨bits, rfl⟩ := mem_range_map_symbolOf hsym
    have henc := encodeSymbols_byteOfBits c (List.length_map _ ▸ hlen)
    refine ⟨byteOfBits bits, (decodeSymbols_eq_some_iff hne).2 henc, henc, fun j hj => ?_⟩
    rw [← henc, getElem?_encodeSymbols c _ hj, Option.some_inj, symbolOf_eq_oneSymbol_iff hne]

end Sys2Proof.Machine
end

section
/-! # The lanes of a pixel's block (R79, R80) -/

namespace Sys2Proof.Machine

/-- Value `k` in wire order is that of role `ORDER[k]` (R8). -/
theorem getElem?_wireVals {c : Config} (vals : ChannelValues) {k : Nat} (hk : k < c.channels) :
    (wireVals c vals)[k]? = c.order.toList[k]?.map (valOf vals) := by
  rw [wireVals, List.getElem?_map, Config.wireOrder, List.getElem?_take_of_lt hk]

/-- Lane `k` of a pixel's block is the encoding of the value of role `ORDER[k]` (R80). -/
theorem lane_formatPixel {c : Config} (vals : ChannelValues) {k : Nat} (hk : k < c.channels) {q : Role}
    (hq : c.order.toList[k]? = some q) :
    ((formatPixel c vals).drop (8 * k)).take 8 = encodeSymbols c (valOf vals q) := by
  have hval : (wireVals c vals)[k]? = some (valOf vals q) := by rw [getElem?_wireVals vals hk, hq, Option.map_some]
  obtain ⟨hlen, hget⟩ := List.getElem?_eq_some_iff.1 hval
  rw [formatPixel, lane_formatWire c hlen, hget]

/-- Settles O11: a block is eight symbols for each channel, and a valid profile has no more channels than `ORDER` slots, so
every lane has its role. -/
theorem formatLanes : Obligations.FormatLanes := by
  intro c vals hv
  have hsize := Config.pixelSymbolSize_of_valid hv
  refine ⟨length_formatPixel vals hv, fun h3 => by rw [hsize, h3], fun h4 => by rw [hsize, h4], fun k hk => ?_⟩
  have hslot : k < c.order.toList.length := hk.trans_le (Config.channels_pos hv).2
  exact ⟨_, List.getElem?_eq_getElem hslot, lane_formatPixel vals hk (List.getElem?_eq_getElem hslot)⟩

end Sys2Proof.Machine
end

section
/-! # SET_BRIGHTNESS: the region it rewrites and the index past the strip (R86, R88) -/

namespace Sys2Proof.Machine

/-! ## What is read of the strip does not depend on the rest of the state -/

theorem State.SameStrip.memByte_eq {s t : State} (h : s.SameStrip t) (a : Nat) : t.memByte a = s.memByte a := by
  rw [State.memByte, State.memByte, h.bufSize_eq, h.cfg_eq, h.buf_eq]

theorem State.SameStrip.memRead_eq {s t : State} (h : s.SameStrip t) (a n : Nat) : t.memRead a n = s.memRead a n := by
  rw [State.memRead, State.memRead, h.bufSize_eq, h.cfg_eq, h.buf_eq]

theorem State.SameStrip.ledVals_eq {s t : State} (h : s.SameStrip t) (i : Nat) : t.ledVals i = s.ledVals i := by
  rw [State.ledVals_eq_readBytes, State.ledVals_eq_readBytes, h.cfg_eq, h.led_eq]

/-! ## What `set_led` writes and what it leaves (R85, R86) -/

/-- The region holds the formatted values. -/
theorem State.memRead_region_of_setLed {s t : State} {i : Nat} {vals : ChannelValues} (h : s.setLed i vals = .ok t) :
    t.memRead (regionStart s.cfg i) s.cfg.pixelSymbolSize = some (formatPixel s.cfg vals) := by
  obtain ⟨-, hlen, hin, rfl⟩ := State.setLed_eq_ok.1 h
  refine State.memRead_eq_some.2 ⟨hin, ?_⟩
  rw [← hlen]
  exact Memory.readBytes_writeBytes _ _ _ _

/-- The bytes before and after the region stay. -/
theorem State.memByte_of_setLed {s t : State} {i a : Nat} {vals : ChannelValues} (h : s.setLed i vals = .ok t)
    (ha : a < regionStart s.cfg i ∨ regionStart s.cfg i + s.cfg.pixelSymbolSize ≤ a) : t.memByte a = s.memByte a := by
  obtain ⟨-, hlen, -, rfl⟩ := State.setLed_eq_ok.1 h
  have outside : ¬(regionStart s.cfg i ≤ a ∧ a < regionStart s.cfg i + (formatPixel s.cfg vals).length) := by omega
  rw [State.memByte, Memory.read_writeBytes, if_neg outside]
  rfl

/-- The LED holds the wire values: a valid profile has one for each of its channels. -/
theorem State.ledVals_of_setLed {s t : State} {i : Nat} {vals : ChannelValues} (hv : s.cfg.profileValid = true)
    (h : s.setLed i vals = .ok t) : t.ledVals i = wireVals s.cfg vals := by
  obtain ⟨-, -, -, rfl⟩ := State.setLed_eq_ok.1 h
  have hlen : (wireVals s.cfg vals).length = s.cfg.channels := by
    rw [length_wireVals, min_eq_left (Config.channels_pos hv).2]
  rw [State.ledVals_eq_readBytes, ← hlen]
  exact Memory.readBytes_writeBytes _ _ _ _

/-- Every other LED keeps its values: there are no more values than channels, and the LEDs' channels are apart. -/
theorem State.ledVals_of_setLed_of_ne {s t : State} {i j : Nat} {vals : ChannelValues} (h : s.setLed i vals = .ok t)
    (hj : j ≠ i) : t.ledVals j = s.ledVals j := by
  obtain ⟨-, -, -, rfl⟩ := State.setLed_eq_ok.1 h
  have hlen : (wireVals s.cfg vals).length ≤ s.cfg.channels := by
    rw [length_wireVals]
    exact min_le_left _ _
  exact Memory.readBytes_writeBytes_of_disjoint ((block_disjoint _ hj).imp_right (Nat.add_le_add_left hlen _).trans)

/-! ## The command -/

/-- A ready block's check found the buffer big enough for the frame (R128). -/
theorem State.InitOk.frameBytes_le {s : State} (h : s.InitOk) (hr : s.ready = true) :
    s.cfg.frameBytes ≤ s.cfg.bufferCapacity := by
  obtain ⟨-, hfits⟩ := (Config.initReady_iff s.cfg).1 (h.ready_eq.symm.trans hr)
  simp only [Config.bufferFits, Bool.and_eq_true, decide_eq_true_eq] at hfits
  exact hfits.2

/-- An in-range SET_BRIGHTNESS of a ready block rewrites the region and starts the frame (R87). -/
theorem exec_setBrightness_inRange {index : BitVec 24} (vals : ChannelValues) {s : State} (hs : s.InitOk)
    (hr : s.ready = true) (hi : index.toNat < s.cfg.leds) :
    ∃ u, s.setLed index.toNat vals = .ok u ∧ exec (.setBrightness index vals) s = .next u.startFrame := by
  obtain ⟨t, he⟩ := exec_next hs (.setBrightness index vals)
  rcases execSetBrightness_cases he with ⟨hnot, -⟩ | ⟨-, hpast, -⟩ | ⟨-, u, hu, rfl⟩
  · exact absurd (hr.symm.trans hnot) (by decide)
  · exact absurd (ledIndex_eq index ▸ hpast) (Nat.not_le.2 hi)
  · exact ⟨u, ledIndex_eq index ▸ hu, he⟩

/-- Settles O16: starting the frame leaves the strip alone, so what the command does to it is what `set_led` does. -/
theorem setBrightnessWritesOneRegion : Obligations.SetBrightnessWritesOneRegion := by
  intro index vals s hs hr hi
  obtain ⟨u, hu, he⟩ := exec_setBrightness_inRange vals hs hr hi
  have same := u.sameStrip_startFrame
  refine ⟨_, he, ?region, ?values, ?outside, ?others, ?inFrame, hs.frameBytes_le hr⟩
  case region => exact (same.memRead_eq _ _).trans (State.memRead_region_of_setLed hu)
  case values => exact (same.ledVals_eq _).trans (State.ledVals_of_setLed (hs.profileValid hr) hu)
  case outside =>
    intro a ha
    rw [Nat.succ_mul] at ha
    exact (same.memByte_eq a).trans (State.memByte_of_setLed hu ha)
  case others => exact fun i hne => (same.ledVals_eq i).trans (State.ledVals_of_setLed_of_ne hu hne)
  case inFrame => exact Nat.mul_le_mul_right _ hi

/-- Settles O17: past the strip `set_led` refuses before it writes, and the command only raises the error. -/
theorem setBrightnessOutOfRange : Obligations.SetBrightnessOutOfRange := by
  intro index vals s hr hi
  exact exec_setBrightness_outOfRange vals hr (ledIndex_eq index ▸ hi)

end Sys2Proof.Machine
end

section
/-! # One step of the serializer: a period in each phase and the transport fault (R95 to R102) -/

namespace Sys2Proof.Machine

/-- Out of reset, the step of an agent that accepts nothing. -/
theorem step_of_turn {s : State} {a : Action} (ht : s.Turn a) (ha : ∀ host, a ≠ .accept host) :
    step s = s.popAction.perform a := by
  obtain ⟨hr, rfl⟩ := ht
  exact step_of_perform hr (State.accepted_eq_none ha)

theorem step_of_period {s : State} {hold : Bool} (ht : s.Turn (.period hold)) : step s = s.popAction.period hold :=
  step_of_turn ht nofun

theorem step_of_fault {s : State} {c : Byte} (ht : s.Turn (.fault c)) : step s = .next (s.popAction.transportFault c) :=
  step_of_turn ht nofun

/-! ## A period and a fault, phase by phase -/

theorem State.period_of_tx {s : State} {h : HostId} {k : Nat} (hp : s.phase = .tx h k) (hold : Bool) :
    s.period hold = s.txPeriod h k hold := by
  rw [State.period, hp]

theorem State.period_of_gap {s : State} {n : Nat} {owner : Option GapOwner} (hp : s.phase = .gap n owner) (hold : Bool) :
    s.period hold = s.gapPeriod n owner := by
  rw [State.period, hp]

theorem State.txPeriod_of_frameBit {s : State} {k : Nat} {hold b : Bool} (h : HostId) (hhold : k = 0 → hold = false)
    (hb : s.frameBit k = some b) : s.txPeriod h k hold = .next (s.emitBit h k b) := by
  have emits : ¬(k = 0 ∧ hold = true) := fun ⟨h0, h1⟩ => Bool.false_ne_true ((hhold h0).symm.trans h1)
  rw [State.txPeriod, if_neg emits, hb]

theorem State.transportFault_of_tx {s : State} {h : HostId} {k : Nat} (hp : s.phase = .tx h k) (c : Byte) :
    s.transportFault c
      = (s.markFrame .aborted).withPhase (.gap s.cfg.latch (some { host := h, result := .transportError c })) := by
  rw [State.transportFault, hp]

theorem State.transportFault_of_gap_ok {s : State} {n : Nat} {h : HostId}
    (hp : s.phase = .gap n (some { host := h, result := .ok })) (c : Byte) :
    s.transportFault c = s.withPhase (.gap n (some { host := h, result := .transportError c })) := by
  rw [State.transportFault, hp]

/-- A fault with no frame on the line and no `OK` waiting for a gap's end counts for nothing. -/
theorem State.transportFault_of_other {s : State} (htx : ∀ h k, s.phase ≠ .tx h k)
    (hgap : ∀ n h, s.phase ≠ .gap n (some { host := h, result := .ok })) (c : Byte) : s.transportFault c = s := by
  rcases s.transportFault_cases c with e | ⟨h, k, hp, -⟩ | ⟨n, h, hp, -⟩
  · exact e
  · exact absurd hp (htx h k)
  · exact absurd hp (hgap n h)

/-- A period that emits no bit is low. -/
theorem State.dout_of_period {s t : State} {hold : Bool} (hno : ∀ h k, s.phase = .tx h k → k = 0 ∧ hold = true)
    (ht : s.period hold = .next t) : t.dout = false := by
  rcases State.period_cases ht with ⟨-, rfl⟩ | ⟨h, k, b, hp, hemit, -⟩ | ⟨n, o, -, -, rfl⟩ | ⟨n, -, rfl⟩
    | ⟨n, o, w, -, -, rfl⟩
  · rfl
  · exact absurd (hno h k hp) hemit
  · rfl
  · rfl
  · rfl

/-! ## The bit of a period (R95) -/

/-- The step that emits bit `b` of the frame: the line, the frame's entry and the phase change. -/
theorem step_of_emit {s : State} {h : HostId} {k : Nat} {hold b : Bool} (ht : s.Turn (.period hold)) (hp : s.phase = .tx h k)
    (hhold : k = 0 → hold = false) (hb : s.frameBit k = some b) : step s = .next (s.popAction.emitBit h k b) := by
  have hb' : s.popAction.frameBit k = some b := by rwa [State.frameBit, s.sameStrip_popAction.memByte_eq]
  rw [step_of_period ht, State.period_of_tx (s.popAction_phase.trans hp), State.txPeriod_of_frameBit h hhold hb']

/-- Settles O31: the buffer of a ready block has the byte, and emitting its bit is the whole step. -/
theorem frameBitEmitted : Obligations.FrameBitEmitted := by
  intro s h k hold ht hp hr hk hhold
  obtain ⟨b, hb⟩ := State.frameBit_of_ready hr hk
  obtain ⟨byte, hbyte, rfl⟩ := Option.map_eq_some_iff.1 hb
  refine ⟨byte, hbyte, ?_⟩
  rw [step_of_emit ht hp hhold hb, State.emitBit, State.popAction_cfg, ← s.popAction_frames]
  split_ifs <;> rfl

/-! ## A period of a gap (R99, R100) -/

/-- A gap of more than one period counts down. -/
theorem step_of_gap {s : State} {hold : Bool} {n : Nat} {owner : Option GapOwner} (ht : s.Turn (.period hold))
    (hp : s.phase = .gap n owner) (hn : 1 < n) :
    step s = .next { s.popAction with dout := false, phase := .gap (n - 1) owner } := by
  rw [step_of_period ht, State.period_of_gap (s.popAction_phase.trans hp), State.gapPeriod, if_pos hn]
  rfl

/-- The last period of a gap is low and ends it. -/
theorem step_of_last_gap {s : State} {hold : Bool} {owner : Option GapOwner} (ht : s.Turn (.period hold))
    (hp : s.phase = .gap 1 owner) : step s = s.popAction.lowPeriod.gapEnd owner := by
  rw [step_of_period ht, State.period_of_gap (s.popAction_phase.trans hp), State.gapPeriod, if_neg (Nat.lt_irrefl 1)]

/-- The end of a command's gap answers its owner for its outstanding word (R100). -/
theorem step_of_gap_answer {s : State} {hold : Bool} {o : GapOwner} {w : Word} (ht : s.Turn (.period hold))
    (hp : s.phase = .gap 1 (some o)) (hw : s.outstandingOf o.host = some w) :
    step s = .next { s.popAction with
      dout := false
      phase := .idle
      responses := s.responses ++
        [.answer o.host w { code := o.result.code, detail := o.result.detail, data := List.replicate 32 0 }]
      outstanding := Sparse.erase s.outstanding o.host } := by
  have hw' : s.popAction.lowPeriod.outstandingOf o.host = some w := by
    rwa [State.outstandingOf, State.lowPeriod_outstanding, State.popAction_outstanding]
  rw [step_of_last_gap ht hp, State.gapEnd, hw', ← s.popAction_responses, ← s.popAction_outstanding]
  rfl

/-- Settles O33: the countdown, the end of the gap after reset, and the end of a command's gap with either result. -/
theorem gapPeriod : Obligations.GapPeriod := by
  refine ⟨fun s hold n owner ht hp hn => step_of_gap ht hp hn, fun s hold ht hp => ?_,
    fun s hold h w ht hp hw => step_of_gap_answer ht hp hw, fun s hold h w c ht hp hw => step_of_gap_answer ht hp hw⟩
  rw [step_of_last_gap ht hp]
  rfl

/-! ## The transport fault (R102) -/

/-- A fault while a frame is on the line aborts it there. -/
theorem step_of_fault_tx {s : State} {c : Byte} {h : HostId} {k : Nat} (ht : s.Turn (.fault c)) (hp : s.phase = .tx h k) :
    step s = .next { s.popAction with
      frames := updateLast (FrameEntry.mark .aborted) s.frames
      phase := .gap s.cfg.latch (some { host := h, result := .transportError c }) } := by
  rw [step_of_fault ht, State.transportFault_of_tx (s.popAction_phase.trans hp), State.popAction_cfg, ← s.popAction_frames]
  rfl

/-- Settles O35: the fault in each phase, and the line in a gap. -/
theorem transportFaultEffect : Obligations.TransportFaultEffect := by
  refine ⟨fun s c h k ht hp => step_of_fault_tx ht hp, ?okGap, ?other, fun c => ⟨rfl, rfl⟩, ?lowGap⟩
  case okGap =>
    intro s c n h ht hp
    rw [step_of_fault ht, State.transportFault_of_gap_ok (s.popAction_phase.trans hp)]
    rfl
  case other =>
    intro s c ht htx hgap
    rw [← s.popAction_phase] at htx hgap
    rw [step_of_fault ht, State.transportFault_of_other htx hgap]
  case lowGap =>
    intro s t hold n owner ht hp hst
    rw [step_of_period ht] at hst
    exact State.dout_of_period (fun h k htx => nomatch (s.popAction_phase.trans hp).symm.trans htx) hst

/-! ## The line outside frames (R98) -/

/-- A command leaves the line as it is. -/
theorem exec_dout {i : Instr} {s t : State} (h : exec i s = .next t) : t.dout = s.dout := by
  rcases exec_cases h with ⟨-, w, code, detail, data, rfl⟩ | ⟨index, vals, u, -, -, hu, rfl⟩
  · rfl
  · obtain ⟨-, -, -, rfl⟩ := State.setLed_eq_ok.1 hu
    rfl

/-- Between periods only reset moves the line, and takes it low. -/
theorem State.dout_of_perform {s t : State} {a : Action} (ha : ∀ hold, a ≠ .period hold) (ht : s.perform a = .next t) :
    t.dout = s.dout ∨ t.dout = false := by
  cases a with
  | period hold => exact absurd rfl (ha hold)
  | assertReset => cases ht; exact .inr rfl
  | fault c =>
    cases ht
    rcases s.transportFault_cases c with e | ⟨h, k, -, e⟩ | ⟨n, h, -, e⟩ <;> rw [e] <;> exact .inl rfl
  | offer h w =>
    cases ht
    rcases s.offer_cases h w with e | ⟨-, -, e⟩ <;> rw [e] <;> exact .inl rfl
  | read h off width => cases ht; exact .inl rfl
  | accept h => cases ht; exact .inl rfl
  | releaseReset c => cases ht; exact .inl rfl

theorem State.dout_of_performInReset (s : State) (a : Action) :
    (s.performInReset a).dout = s.dout ∨ (s.performInReset a).dout = false := by
  cases a with
  | releaseReset c => exact .inr rfl
  | _ => exact .inl rfl

/-- Settles O34: a period drives the line, high only where it emits a bit; every other step keeps it, but for reset. -/
theorem lineLowOutsideFrames : Obligations.LineLowOutsideFrames := by
  intro s t h
  refine ⟨fun hold ht hno => ?_, fun hnot => ?_⟩
  · rw [← s.popAction_phase] at hno
    rw [step_of_period ht] at h
    exact State.dout_of_period hno h
  · rw [← s.popAction_dout]
    rcases step_cases h with ⟨host, w, -, he⟩ | ⟨-, rfl⟩ | ⟨-, -, hp⟩
    · exact .inl ((exec_dout he).trans (s.popAction.take_dout host w))
    · exact s.popAction.dout_of_performInReset _
    · exact State.dout_of_perform hnot hp

end Sys2Proof.Machine
end

section
/-! # The bits of a frame's image (R40, R94, R95) -/

namespace Sys2Proof.Machine

theorem length_wireBits (b : Byte) : (wireBits b).length = 8 := rfl

/-- Bit `j` of a byte sequence on the wire is bit `7 - (j mod 8)` of its byte `j div 8` (R40, R95). -/
theorem getElem?_flatMap_wireBits (bs : List Byte) (j : Nat) :
    (bs.flatMap wireBits)[j]? = bs[j / 8]?.map fun b => b.getLsbD (7 - j % 8) := by
  induction bs generalizing j with
  | nil => rfl
  | cons b bs ih =>
    rw [List.flatMap_cons]
    by_cases hj : j < 8
    · rw [List.getElem?_append_left (by rwa [length_wireBits]), getElem?_wireBits b hj, Nat.div_eq_of_lt hj,
        Nat.mod_eq_of_lt hj]
      rfl
    · obtain ⟨i, rfl⟩ := Nat.exists_eq_add_of_le' (Nat.le_of_not_lt hj)
      rw [List.getElem?_append_right (by rw [length_wireBits]; omega), length_wireBits, Nat.add_sub_cancel, ih,
        Nat.add_div_right i (by decide), Nat.add_mod_right, List.getElem?_cons_succ]

theorem State.getElem?_frameBytes {s : State} (hr : s.ready = true) (a : Nat) : s.frameBytes[a]? = s.memByte a := by
  rw [State.memByte, State.bufSize_of_ready hr]
  split_ifs with ha
  · simp [State.frameBytes, Memory.readBytes, ha]
  · exact List.getElem?_eq_none (by simpa [State.frameBytes] using ha)

/-- The image is the frame's bits in order: bit `j` of it is `bit(j)`, and it ends where they do. -/
theorem State.getElem?_frameImage {s : State} (hr : s.ready = true) (j : Nat) : s.frameImage[j]? = s.frameBit j := by
  rw [State.frameImage, getElem?_flatMap_wireBits, State.getElem?_frameBytes hr, State.frameBit]

/-- One bit more of the frame. -/
theorem State.take_succ_frameImage {s : State} (hr : s.ready = true) {j : Nat} {b : Bool} (hb : s.frameBit j = some b) :
    s.frameImage.take (j + 1) = s.frameImage.take j ++ [b] := by
  rw [List.take_add_one, State.getElem?_frameImage hr, hb, Option.toList_some]

end Sys2Proof.Machine
end

section
/-! # Runs of periods: the start latency, the bits of a frame, a gap (R95 to R100) -/

namespace Sys2Proof.Machine

theorem State.turn_of_agenda {s : State} {a : Action} {rest : List Action} (hr : s.resetAsserted = false)
    (ha : s.agenda = a :: rest) : s.Turn a :=
  ⟨hr, State.nextAction_cons ha⟩

/-- Held periods before bit 0 do nothing but keep the line low (R96). -/
theorem run_held {s : State} {h : HostId} {lead : Nat} {rest : List Action} (hr : s.resetAsserted = false)
    (hp : s.phase = .tx h 0) (ha : s.agenda = List.replicate lead (Action.period true) ++ rest) :
    core.run lead s = .next { s with agenda := rest, dout := if lead = 0 then s.dout else false } := by
  induction lead generalizing s with
  | zero =>
    obtain rfl : s.agenda = rest := ha
    rfl
  | succ lead ih =>
    rw [List.replicate_succ, List.cons_append] at ha
    have hstep : step s =
        .next { s with agenda := List.replicate lead (Action.period true) ++ rest, dout := false } := by
      rw [step_of_period (State.turn_of_agenda hr ha), State.period_of_tx (s.popAction_phase.trans hp),
        State.popAction_cons ha]
      rfl
    refine (core_run_succ lead hstep).trans ((ih ?_ ?_ ?_).trans ?_)
    · exact hr
    · exact hp
    · rfl
    · rw [ite_self, if_neg lead.succ_ne_zero]

/-- The step that emits a bit that is not the last: one bit more of the image is out. -/
theorem step_emits_bit {s : State} {h : HostId} {j : Nat} {past : List FrameEntry} {rest : List Action}
    (hr : s.resetAsserted = false) (hready : s.ready = true) (hp : s.phase = .tx h j)
    (hf : s.frames = past ++ [.frame (s.frameImage.take j) .inProgress]) (hj : j + 1 < s.cfg.frameBits)
    (ha : s.agenda = Action.period false :: rest) :
    ∃ b, step s = .next
      { s with
        agenda := rest
        dout := b
        frames := past ++ [.frame (s.frameImage.take (j + 1)) .inProgress]
        phase := .tx h (j + 1) } := by
  obtain ⟨b, hb⟩ := State.frameBit_of_ready hready (Nat.lt_of_succ_lt hj)
  refine ⟨b, ?_⟩
  have hpush : updateLast (FrameEntry.push b) s.frames
      = past ++ [.frame (s.frameImage.take (j + 1)) .inProgress] := by
    rw [hf, updateLast_append, FrameEntry.push, State.take_succ_frameImage hready hb]
  rw [step_of_emit (State.turn_of_agenda hr ha) hp (fun _ => rfl) hb, State.emitBit, State.popAction_cfg, if_pos hj,
    State.popAction_cons ha, ← hpush]
  rfl

/-- `n` periods in `Tx(h, j)`, the last bit of the frame not among them, emit `n` more bits of the image. -/
theorem run_emits_bits {s : State} {h : HostId} {j n : Nat} {past : List FrameEntry} {rest : List Action}
    (hr : s.resetAsserted = false) (hready : s.ready = true) (hp : s.phase = .tx h j)
    (hf : s.frames = past ++ [.frame (s.frameImage.take j) .inProgress]) (hj : j + n < s.cfg.frameBits)
    (ha : s.agenda = List.replicate n (Action.period false) ++ rest) :
    ∃ d, core.run n s = .next
      { s with
        agenda := rest
        dout := d
        frames := past ++ [.frame (s.frameImage.take (j + n)) .inProgress]
        phase := .tx h (j + n) } := by
  induction n generalizing s j with
  | zero =>
    obtain rfl : s.agenda = rest := ha
    refine ⟨s.dout, ?_⟩
    rw [Nat.add_zero, ← hf, ← hp]
    rfl
  | succ n ih =>
    rw [List.replicate_succ, List.cons_append] at ha
    have hnext : j + (n + 1) = j + 1 + n := by omega
    rw [hnext] at hj ⊢
    obtain ⟨b, hstep⟩ := step_emits_bit hr hready hp hf (by omega) ha
    refine (ih ?_ ?_ ?_ ?_ ?_ ?_).imp fun d hrun => (core_run_succ n hstep).trans hrun
    exacts [hr, hready, rfl, rfl, hj, rfl]

/-- A frame from its start: after the start latency, `k` periods emit its first `k` bits. -/
theorem run_emits_first_bits {s : State} {h : HostId} {lead k : Nat} {past : List FrameEntry} {rest : List Action}
    (hr : s.resetAsserted = false) (hready : s.ready = true) (hp : s.phase = .tx h 0)
    (hf : s.frames = past ++ [.frame [] .inProgress]) (hk : k < s.cfg.frameBits)
    (ha : s.agenda = List.replicate lead (Action.period true) ++ (List.replicate k (Action.period false) ++ rest)) :
    ∃ d, core.run (lead + k) s = .next
      { s with
        agenda := rest
        dout := d
        frames := past ++ [.frame (s.frameImage.take k) .inProgress]
        phase := .tx h k } := by
  rw [← Nat.zero_add k] at hk
  have hemits := run_emits_bits (s := { s with
    agenda := List.replicate k (Action.period false) ++ rest
    dout := if lead = 0 then s.dout else false }) hr hready hp hf hk rfl
  rw [Nat.zero_add] at hemits
  exact hemits.imp fun d hrun => (core_run_add k (run_held hr hp ha)).trans hrun

/-- The step of a fault that ends the frame on the line: its entry keeps the bits that are out. -/
theorem step_aborts_frame {s : State} {h : HostId} {k : Nat} {c : Byte} {past : List FrameEntry} {bits : List Bool}
    {st : FrameStatus} {rest : List Action} (hr : s.resetAsserted = false) (hp : s.phase = .tx h k)
    (hf : s.frames = past ++ [.frame bits st]) (ha : s.agenda = Action.fault c :: rest) :
    step s = .next
      { s with
        agenda := rest
        frames := past ++ [.frame bits .aborted]
        phase := .gap s.cfg.latch (some { host := h, result := .transportError c }) } := by
  rw [step_of_fault_tx (State.turn_of_agenda hr ha) hp, hf, updateLast_append, FrameEntry.mark, State.popAction_cons ha]

/-- `m` periods of a gap that has more are low and count it down (R99). -/
theorem run_gap_countdown {s : State} {owner : Option GapOwner} {m n : Nat} {rest : List Action}
    (hr : s.resetAsserted = false) (hp : s.phase = .gap (m + (n + 1)) owner)
    (ha : s.agenda = List.replicate m (Action.period false) ++ rest) :
    core.run m s = .next
      { s with agenda := rest, dout := if m = 0 then s.dout else false, phase := .gap (n + 1) owner } := by
  induction m generalizing s with
  | zero =>
    obtain rfl : s.agenda = rest := ha
    rw [Nat.zero_add] at hp
    rw [← hp]
    rfl
  | succ m ih =>
    rw [List.replicate_succ, List.cons_append] at ha
    have hleft : m + 1 + (n + 1) - 1 = m + (n + 1) := by omega
    have hstep : step s = .next
        { s with
          agenda := List.replicate m (Action.period false) ++ rest
          dout := false
          phase := .gap (m + (n + 1)) owner } := by
      rw [step_of_gap (State.turn_of_agenda hr ha) hp (by omega), State.popAction_cons ha, hleft]
    refine (core_run_succ m hstep).trans ((ih ?_ ?_ ?_).trans ?_)
    · exact hr
    · rfl
    · rfl
    · rw [ite_self, if_neg m.succ_ne_zero]

/-- The whole of a command's gap: low periods, and with the last of them the owner's one response (R100). -/
theorem run_gap_answer {s : State} {o : GapOwner} {w : Word} {n : Nat} {rest : List Action} (hr : s.resetAsserted = false)
    (hn : 1 ≤ n) (hp : s.phase = .gap n (some o)) (hw : s.outstandingOf o.host = some w)
    (ha : s.agenda = List.replicate n (Action.period false) ++ rest) :
    core.run n s = .next
      { s with
        agenda := rest
        dout := false
        phase := .idle
        responses := s.responses ++
          [.answer o.host w { code := o.result.code, detail := o.result.detail, data := List.replicate 32 0 }]
        outstanding := Sparse.erase s.outstanding o.host } := by
  obtain ⟨m, rfl⟩ := Nat.exists_eq_add_of_le' hn
  rw [List.replicate_succ', List.append_assoc] at ha
  refine (core_run_add 1 (run_gap_countdown (n := 0) hr hp ha)).trans (core_run_succ 0 ?_)
  exact step_of_gap_answer (State.turn_of_agenda hr rfl) rfl hw

end Sys2Proof.Machine
end

section
/-! # The word of a SET_BRIGHTNESS decodes to it (R59, R67) -/

namespace Sys2Proof

theorem toNat_encode_setBrightness (index : BitVec 24) (vals : ChannelValues) :
    (encode (.setBrightness index vals)).toNat = 3 + index.toNat * 2 ^ 8 + vals.r.toNat * 2 ^ 32 + vals.g.toNat * 2 ^ 40
      + vals.b.toNat * 2 ^ 48 + vals.w.toNat * 2 ^ 56 := by
  rw [encode, toNat_above_headByte, toNat_append_eq_add, toNat_encodeVals]
  have hop : (3 : BitVec 4).toNat = 3 := rfl
  have hrsv : (0 : BitVec 4).toNat = 0 := rfl
  omega

theorem decodeWord_encode_setBrightness (index : BitVec 24) (vals : ChannelValues) :
    decodeWord (encode (.setBrightness index vals)) = .setBrightness index vals := by
  generalize hw : encode (.setBrightness index vals) = w
  have value := toNat_encode_setBrightness index vals
  rw [hw] at value
  have field {a k : Nat} {x : BitVec k} (hx : w.toNat / 2 ^ a % 2 ^ k = x.toNat) : w.extractLsb' a k = x :=
    BitVec.eq_of_toNat_eq ((toNat_field w a k).trans hx)
  have hop : opField w = 3 := field (by change _ = 3; omega)
  have hrsv : rsvField w = 0 := field (by change _ = 0; omega)
  have hindex : indexField w = index := field (by omega)
  have hvals : valsField w = ⟨vals.r, vals.g, vals.b, vals.w⟩ := by
    rw [valsField, ChannelValues.mk.injEq]
    exact ⟨field (by omega), field (by omega), field (by omega), field (by omega)⟩
  rw [decodeWord, if_neg (not_not.2 hrsv), hop, hindex, hvals]
  rfl

end Sys2Proof
end

section
/-! # A whole update that a fault aborts (R103) -/

namespace Sys2Proof.Machine

/-- Acceptance of an in-range SET_BRIGHTNESS by a ready block: the region is written and the frame starts (R83, R87). -/
theorem step_accepts_update {s : State} {h : HostId} {index : BitVec 24} {vals : ChannelValues} (hs : s.InitOk)
    (hready : s.ready = true) (hi : index.toNat < s.cfg.leds)
    (ha : s.accepted = some (h, encode (.setBrightness index vals))) :
    ∃ u, (s.popAction.take h (encode (.setBrightness index vals))).setLed index.toNat vals = .ok u
      ∧ step s = .next u.startFrame := by
  have same := s.sameStrip_popAction.trans (s.popAction.sameStrip_take h (encode (.setBrightness index vals)))
  obtain ⟨u, hu, he⟩ := exec_setBrightness_inRange vals (same.initOk hs) (same.ready_eq.trans hready)
    (same.cfg_eq ▸ hi)
  exact ⟨u, hu, by rw [step_of_accepted ha, decodeWord_encode_setBrightness, he]⟩

/-- From a fault with a frame on the line to the end of its gap: the entry keeps the bits that are out, and the owner is
answered with the fault's code (R102). -/
theorem run_fault_to_answer {s : State} {h : HostId} {w : Word} {k : Nat} {c : Byte} {past : List FrameEntry}
    {bits : List Bool} {st : FrameStatus} {rest : List Action} (hr : s.resetAsserted = false) (hp : s.phase = .tx h k)
    (hf : s.frames = past ++ [.frame bits st]) (hw : s.outstandingOf h = some w)
    (ha : s.agenda = Action.fault c :: (List.replicate s.cfg.latch (Action.period false) ++ rest)) :
    core.run (1 + s.cfg.latch) s = .next
      { s with
        agenda := rest
        dout := false
        phase := .idle
        frames := past ++ [.frame bits .aborted]
        responses := s.responses ++
          [.answer h w { code := .transportError, detail := c, data := List.replicate 32 0 }]
        outstanding := Sparse.erase s.outstanding h } := by
  rw [Nat.add_comm]
  refine (core_run_succ _ (step_aborts_frame hr hp hf ha)).trans
    (run_gap_answer (o := ⟨h, .transportError c⟩) ?_ ?_ ?_ ?_ ?_)
  exacts [hr, s.cfg.latchIdleClks.property, rfl, hw, rfl]

/-- A frame from its start that a fault ends once `k` bits are out, and its gap: the entry holds those bits, the owner is
answered with the fault's code, and nothing else changes (R96, R102, R103). -/
theorem run_aborted_frame {s : State} {h : HostId} {w : Word} {lead k : Nat} {c : Byte} {past : List FrameEntry}
    {rest : List Action} (hr : s.resetAsserted = false) (hready : s.ready = true) (hp : s.phase = .tx h 0)
    (hf : s.frames = past ++ [.frame [] .inProgress]) (hw : s.outstandingOf h = some w) (hk : k < s.cfg.frameBits)
    (ha : s.agenda = List.replicate lead (Action.period true) ++ (List.replicate k (Action.period false)
      ++ (Action.fault c :: (List.replicate s.cfg.latch (Action.period false) ++ rest)))) :
    core.run (lead + k + (1 + s.cfg.latch)) s = .next
      { s with
        agenda := rest
        dout := false
        phase := .idle
        frames := past ++ [.frame (s.frameImage.take k) .aborted]
        responses := s.responses ++
          [.answer h w { code := .transportError, detail := c, data := List.replicate 32 0 }]
        outstanding := Sparse.erase s.outstanding h } := by
  obtain ⟨d, hbits⟩ := run_emits_first_bits hr hready hp hf hk ha
  have htail := run_fault_to_answer (s := { s with
    agenda := Action.fault c :: (List.replicate s.cfg.latch (Action.period false) ++ rest)
    dout := d
    frames := past ++ [.frame (s.frameImage.take k) .inProgress]
    phase := .tx h k }) hr rfl rfl hw rfl
  exact (core_run_add _ hbits).trans htail

/-- In `Idle` no command is outstanding (R27, R49). -/
theorem State.Inv.outstanding_of_idle {s : State} (hs : s.Inv) (hidle : s.phase = .idle) : s.outstanding = [] := by
  have hphase := hs.phase
  rw [State.PhaseOk, hidle] at hphase
  exact hphase.1

/-- Settles O39: the acceptance writes the region and starts the frame, and the frame runs to the fault and its gap to the
answer. -/
theorem abortedUpdateRunsToError : Obligations.AbortedUpdateRunsToError := by
  intro s h index vals lead k c rest hinv hr hready hidle hwait hi hk hag
  have hout := hinv.outstanding_of_idle hidle
  have hacc : s.accepted = some (h, encode (.setBrightness index vals)) :=
    State.accepted_eq_some.2 ⟨hr, State.nextAction_cons hag, hidle, by rw [State.outstandingOf, hout]; rfl, hwait⟩
  obtain ⟨u, hu, hstep⟩ := step_accepts_update hinv.init hready hi hacc
  rw [State.popAction_cons hag] at hu
  obtain ⟨-, -, -, rfl⟩ := State.setLed_eq_ok.1 hu
  have hserved (w : Word) : (s.take h w).outstandingOf h = some w := by rw [State.outstandingOf_take, if_pos rfl]
  have hanswered (w : Word) : Sparse.erase (Sparse.put s.outstanding h w) h = [] := by
    rw [hout]
    simp [Sparse.put, Sparse.erase]
  have hrun := (core_run_succ _ hstep).trans (run_aborted_frame hr hready rfl rfl (hserved _) hk rfl)
  rw [Nat.add_comm 1]
  exact ⟨_, hrun, rfl, rfl, rfl, hanswered _, rfl, rfl, rfl, rfl⟩

end Sys2Proof.Machine
end

section
/-! # The refusal of a register read (R107, R114) -/

namespace Sys2Proof.Machine

/-- A read is refused exactly for another width, a misaligned offset or an offset past 0xFFC (R114). -/
theorem State.readReg_eq_busError_iff (s : State) (off width : Nat) :
    s.readReg off width = .busError ↔ width ≠ 32 ∨ off % 4 ≠ 0 ∨ off > 0xFFC := by
  rw [State.readReg]
  split
  case isTrue hbad => exact iff_of_true rfl hbad
  case isFalse hgood => exact iff_of_false ReadResult.noConfusion hgood

/-- Settles O49: a read's step only records its answer, and the answer is a refusal in exactly the three cases. -/
theorem busErrorReads : Obligations.BusErrorReads := by
  intro s off width
  refine ⟨s.readReg_eq_busError_iff off width, fun h ht hbad => ?_⟩
  rw [step_of_read ht, (s.readReg_eq_busError_iff off width).2 hbad]

end Sys2Proof.Machine
end

section
/-! # The initialisation check at reset release (R126, R128) -/

namespace Sys2Proof

theorem Config.channels_eq_iff (c : Config) (n : BitVec 4) : c.channels = n.toNat ↔ c.channelsPerLed = n :=
  BitVec.toNat_inj

/-- The `ConfigurationError` tests of R128, one of which holds where the profile is not valid. -/
theorem Config.profileValid_eq_false_iff (c : Config) :
    c.profileValid = false ↔ c.bitsPerChannel ≠ 8 ∨ ¬(c.channelsPerLed = 3 ∨ c.channelsPerLed = 4) ∨ ¬c.wireOrder.Nodup ∨
      c.zeroSymbol = c.oneSymbol ∨ c.busFreqHz.toNat ≠ 8 * c.nativeBitRateHz.toNat ∨
      c.busFreqHz.toNat ∉ c.busClocks := by
  have three : c.channels = 3 ↔ c.channelsPerLed = 3 := c.channels_eq_iff 3
  have four : c.channels = 4 ↔ c.channelsPerLed = 4 := c.channels_eq_iff 4
  rw [← Bool.not_eq_true, Config.profileValid_iff, Config.busClockSupported, decide_eq_true_eq, three, four]
  simp only [not_and_or, ne_eq, not_not]

/-- The `AllocationFailure` tests of R128, one of which holds where the buffer does not fit. -/
theorem Config.bufferFits_eq_false_iff (c : Config) :
    c.bufferFits = false ↔ c.leds > 2 ^ 24 ∨ c.leds * c.pixelSymbolSize > c.bufferCapacity := by
  simp only [Config.bufferFits, Bool.and_eq_false_iff, decide_eq_false_iff_not, not_le, gt_iff_lt]

end Sys2Proof

namespace Sys2Proof.Machine

/-- The step of a reset release (R126). -/
theorem step_of_releaseReset {s : State} {c : Config} (hr : s.resetAsserted = true)
    (hnext : s.nextAction = .releaseReset c) : step s = .next (s.popAction.releaseReset c) := by
  rw [step_in_reset hr, hnext, State.performInReset]

/-- A release records the outcome of the check of the configuration it samples (R128). -/
@[simp] theorem State.releaseReset_initErr (s : State) (c : Config) : (s.releaseReset c).initErr = c.initCheck := rfl

/-- After a release the block is ready exactly if the check finds no error (R128). -/
@[simp] theorem State.releaseReset_ready (s : State) (c : Config) :
    (s.releaseReset c).ready = true ↔ c.initCheck = .noError :=
  decide_eq_true_iff

/-- Settles O41: a release's step is `releaseReset`, and the check's two branches are R128's two lists of tests. -/
theorem initCheckInOrder : Obligations.InitCheckInOrder := by
  intro c
  constructor
  · intro s hr hnext
    exact ⟨_, step_of_releaseReset hr hnext, State.releaseReset_initErr _ c, State.releaseReset_ready _ c⟩
  · exact if_congr c.profileValid_eq_false_iff rfl (if_congr c.bufferFits_eq_false_iff rfl rfl)

end Sys2Proof.Machine
end

section
/-! # Decoding undoes encoding, on well-formed terms (R59, R63 to R67) -/

namespace Sys2Proof

open Machine (extractLsb'_append_of_le extractLsb'_append_low)

/-! ## The fields of an encoded word -/

@[simp] theorem opField_append_headByte (rest : BitVec 56) (op rsv : BitVec 4) :
    opField (rest ++ headByte op rsv) = op := by
  apply BitVec.eq_of_toNat_eq
  rw [opField, toNat_field, toNat_above_headByte]
  omega

@[simp] theorem rsvField_append_headByte (rest : BitVec 56) (op rsv : BitVec 4) :
    rsvField (rest ++ headByte op rsv) = rsv := by
  apply BitVec.eq_of_toNat_eq
  rw [rsvField, toNat_field, toNat_above_headByte]
  omega

@[simp] theorem restField_append (rest : BitVec 56) (head : Byte) : restField (rest ++ head) = rest := by
  rw [restField, extractLsb'_append_of_le _ _ (Nat.le_refl 8)]
  exact BitVec.extractLsb'_eq_self

/-- The field above OP and RSV (R60). -/
@[simp] theorem indexField_append (hi : BitVec 32) (lo : BitVec 24) (head : Byte) : indexField (hi ++ lo ++ head) = lo := by
  rw [indexField, extractLsb'_append_of_le _ _ (Nat.le_refl 8)]
  exact extractLsb'_append_low hi lo

/-- What stands above INDEX. -/
theorem extractLsb'_operands_append (hi : BitVec 32) (lo : BitVec 24) (head : Byte) {a k : Nat} (ha : 32 ≤ a) :
    (hi ++ lo ++ head).extractLsb' a k = hi.extractLsb' (a - 32) k := by
  rw [extractLsb'_append_of_le _ _ (by omega), extractLsb'_append_of_le _ _ (by omega), Nat.sub_sub]

theorem encodeVals_injective : Function.Injective encodeVals := by
  rintro ⟨r, g, b, w⟩ ⟨r', g', b', w'⟩ h
  have hn := congrArg BitVec.toNat h
  simp only [toNat_encodeVals] at hn
  rw [ChannelValues.mk.injEq]
  refine ⟨?_, ?_, ?_, ?_⟩ <;> apply BitVec.eq_of_toNat_eq <;> omega

/-- The four value operands above INDEX (R61). -/
@[simp] theorem valsField_append (vals : ChannelValues) (lo : BitVec 24) (head : Byte) :
    valsField (encodeVals vals ++ lo ++ head) = vals := by
  apply encodeVals_injective
  rw [encodeVals_valsField, extractLsb'_operands_append _ _ _ (Nat.le_refl 32)]
  exact BitVec.extractLsb'_eq_self

/-! ## The decoder on an encoded word -/

/-- With no reserved bit set the opcode selects. -/
theorem decodeWord_append_headByte_zero (rest : BitVec 56) (op : BitVec 4) :
    decodeWord (rest ++ headByte op 0) =
      if op = 0 then .nop rest
      else if op = 1 then
        .encode (vrField (rest ++ headByte op 0)) (indexField (rest ++ headByte op 0)) (encodeHiField (rest ++ headByte op 0))
      else if op = 2 then .format (valsField (rest ++ headByte op 0)) (indexField (rest ++ headByte op 0))
      else if op = 3 then .setBrightness (indexField (rest ++ headByte op 0)) (valsField (rest ++ headByte op 0))
      else if op.toNat ≤ 7 then .reserved4to7 op rest
      else .reserved8toF op rest := by
  rw [decodeWord, rsvField_append_headByte, opField_append_headByte, restField_append, if_neg (not_not.2 rfl)]

/-- An opcode past the four commands' is reserved (R65). -/
theorem decodeWord_of_reserved (rest : BitVec 56) {op : BitVec 4} (h : 4 ≤ op.toNat) :
    decodeWord (rest ++ headByte op 0) = if op.toNat ≤ 7 then .reserved4to7 op rest else .reserved8toF op rest := by
  have ne (k : BitVec 4) (hk : k.toNat < 4) : op ≠ k := fun e => absurd (e ▸ h) (Nat.not_le.2 hk)
  rw [decodeWord_append_headByte_zero, if_neg (ne 0 (by decide)), if_neg (ne 1 (by decide)), if_neg (ne 2 (by decide)),
    if_neg (ne 3 (by decide))]

/-- A set reserved bit makes an illegal word (R64), sorted by its reserved bits. -/
theorem decodeWord_of_rsv (rest : BitVec 56) (op : BitVec 4) {rsv : BitVec 4} {k : Nat} (h : rsv.getLsbD k = true) :
    decodeWord (rest ++ headByte op rsv) =
      if rsv.getLsbD 0 then .illegalRsv4 op rsv rest
      else if rsv.getLsbD 1 then .illegalRsv5 op rsv rest
      else if rsv.getLsbD 2 then .illegalRsv6 op rsv rest
      else .illegalRsv7 op rsv rest := by
  have hne : rsv ≠ 0 := by
    rintro rfl
    simp at h
  rw [decodeWord, rsvField_append_headByte, if_pos hne, decodeIllegal, rsvField_append_headByte, opField_append_headByte,
    restField_append]

/-- Settles O1: the opcode and the reserved bits of an encoded well-formed term select its row, and every field reads back
what was put in its place. -/
theorem decodeAfterEncode : Obligations.DecodeAfterEncode := by
  intro i wf
  cases i with
  | setBrightness index vals => exact decodeWord_encode_setBrightness index vals
  | nop ignored => rw [encode, decodeWord_append_headByte_zero, if_pos rfl]
  | encode value lo hi =>
    have value_eq : vrField (hi ++ value ++ lo ++ headByte 1 0) = value := by
      rw [vrField, extractLsb'_operands_append _ _ _ (Nat.le_refl 32)]
      exact extractLsb'_append_low hi value
    have hi_eq : encodeHiField (hi ++ value ++ lo ++ headByte 1 0) = hi := by
      rw [encodeHiField, extractLsb'_operands_append _ _ _ (by decide), extractLsb'_append_of_le _ _ (Nat.le_refl 8)]
      exact BitVec.extractLsb'_eq_self
    rw [encode, decodeWord_append_headByte_zero, if_neg (by decide), if_pos rfl, value_eq, hi_eq, indexField_append]
  | format vals lo =>
    rw [encode, decodeWord_append_headByte_zero, if_neg (by decide), if_neg (by decide), if_pos rfl, valsField_append,
      indexField_append]
  | reserved4to7 op rest =>
    obtain ⟨hge, hle⟩ : 4 ≤ op.toNat ∧ op.toNat ≤ 7 := of_decide_eq_true wf
    rw [encode, decodeWord_of_reserved rest hge, if_pos hle]
  | reserved8toF op rest =>
    have hge : 8 ≤ op.toNat := of_decide_eq_true wf
    rw [encode, decodeWord_of_reserved rest (by omega), if_neg (by omega)]
  | illegalRsv4 op rsv rest =>
    have h0 : rsv.getLsbD 0 = true := wf
    rw [encode, decodeWord_of_rsv rest op h0, if_pos h0]
  | illegalRsv5 op rsv rest =>
    simp only [WellFormed, Bool.and_eq_true, Bool.not_eq_true'] at wf
    obtain ⟨h0, h1⟩ := wf
    rw [encode, decodeWord_of_rsv rest op h1, h0, h1]
    rfl
  | illegalRsv6 op rsv rest =>
    simp only [WellFormed, Bool.and_eq_true, Bool.not_eq_true'] at wf
    obtain ⟨⟨h0, h1⟩, h2⟩ := wf
    rw [encode, decodeWord_of_rsv rest op h2, h0, h1, h2]
    rfl
  | illegalRsv7 op rsv rest =>
    simp only [WellFormed, Bool.and_eq_true, Bool.not_eq_true'] at wf
    obtain ⟨⟨⟨h0, h1⟩, h2⟩, h3⟩ := wf
    rw [encode, decodeWord_of_rsv rest op h3, h0, h1, h2]
    rfl

/-! ## The decoded term is well-formed -/

theorem four_le_toNat_of_not_mem {op : BitVec 4} (h : op ∉ [0, 1, 2, 3]) : 4 ≤ op.toNat := by
  revert op
  decide

/-- Reserved bits that are not all clear have a lowest one set, and the word is sorted under it. -/
theorem wellFormed_decodeIllegal {w : Word} (h : rsvField w ≠ 0) : WellFormed (decodeIllegal w) = true := by
  have lowest : ∀ rsv : BitVec 4, rsv ≠ 0 → rsv.getLsbD 0 = false → rsv.getLsbD 1 = false → rsv.getLsbD 2 = false →
      rsv.getLsbD 3 = true := by decide
  unfold decodeIllegal
  split_ifs with h0 h1 h2
  · exact h0
  all_goals
    simp only [Bool.not_eq_true] at *
    simp only [WellFormed, Bool.and_eq_true, Bool.not_eq_true']
  · exact ⟨h0, h1⟩
  · exact ⟨⟨h0, h1⟩, h2⟩
  · exact ⟨⟨⟨h0, h1⟩, h2⟩, lowest _ h h0 h1 h2⟩

theorem wellFormed_decodeWord (w : Word) : WellFormed (decodeWord w) = true := by
  rcases decodeWord_cases w with
    ⟨hrsv, e⟩ | ⟨-, ⟨-, e⟩ | ⟨-, e⟩ | ⟨-, e⟩ | ⟨-, e⟩ | ⟨hop, ⟨hle, e⟩ | ⟨hlt, e⟩⟩⟩ <;> rw [e]
  · exact wellFormed_decodeIllegal hrsv
  · rfl
  · rfl
  · rfl
  · rfl
  · exact decide_eq_true ⟨four_le_toNat_of_not_mem hop, hle⟩
  · exact decide_eq_true hlt

/-- Settles O2: the decoder's branches keep every bit of the word and test what well-formedness asks. -/
theorem encodeAfterDecode : Obligations.EncodeAfterDecode := fun w => ⟨wellFormed_decodeWord w, encode_decodeWord w⟩

end Sys2Proof
end

section
/-! # Both memories from step to step (R16, R21, R22) -/

namespace Sys2Proof.Machine

/-- Both memories are in canonical form. -/
def State.MemCanonical (s : State) : Prop := Memory.wf s.cfg.zeroSymbol s.buf ∧ Memory.wf 0 s.led

theorem State.SameStrip.memCanonical {s t : State} (h : s.SameStrip t) (hs : s.MemCanonical) : t.MemCanonical := by
  rwa [State.MemCanonical, h.cfg_eq, h.buf_eq, h.led_eq]

theorem State.memCanonical_setLed {s t : State} {i : Nat} {vals : ChannelValues} (hs : s.MemCanonical)
    (h : s.setLed i vals = .ok t) : t.MemCanonical := by
  obtain ⟨-, -, -, rfl⟩ := State.setLed_eq_ok.1 h
  exact ⟨Memory.wf_writeBytes _ _ hs.1, Memory.wf_writeBytes _ _ hs.2⟩

/-- Settles O54: a step leaves the memories alone, empties them at a reset release, or writes byte sequences into them, and a
write keeps the canonical form. -/
theorem stepKeepsMemoryCanonical : Obligations.StepKeepsMemoryCanonical := by
  intro s t hbuf hled h
  have hs : s.MemCanonical := ⟨hbuf, hled⟩
  rcases step_strip_cases h with same | ⟨c, -, same⟩ | ⟨i, vals, u, hu, same⟩
  · exact same.memCanonical hs
  · exact same.memCanonical ⟨Memory.wf_nil _, Memory.wf_nil _⟩
  · exact same.memCanonical (State.memCanonical_setLed hs hu)

theorem State.SameStrip.memOk {s t : State} (h : s.SameStrip t) (hs : s.MemOk) : t.MemOk := by
  obtain ⟨hbuf, hin, hled, hledin⟩ := hs
  constructor
  · rwa [h.cfg_eq, h.buf_eq]
  · rwa [h.buf_eq, h.bufSize_eq]
  · rwa [h.led_eq]
  · rwa [h.led_eq, h.cfg_eq]

theorem State.memOk_powerOn (c : Config) : (State.powerOn c).MemOk :=
  ⟨Memory.wf_nil _, nofun, Memory.wf_nil _, nofun⟩

/-- The channels of an LED of the strip are channels of the strip. -/
theorem channels_add_le {c : Config} {i n : Nat} (hi : i < c.leds) (hn : n ≤ c.channels) :
    i * c.channels + n ≤ c.leds * c.channels :=
  calc i * c.channels + n ≤ (i + 1) * c.channels := by rw [Nat.succ_mul]; exact Nat.add_le_add_left hn _
    _ ≤ c.leds * c.channels := Nat.mul_le_mul_right _ hi

/-- The region update of R85 writes inside both memories. -/
theorem State.memOk_setLed {s t : State} {i : Nat} {vals : ChannelValues} (hs : s.MemOk) (h : s.setLed i vals = .ok t) :
    t.MemOk := by
  obtain ⟨hi, hlen, hin, rfl⟩ := State.setLed_eq_ok.1 h
  have hvals : (wireVals s.cfg vals).length ≤ s.cfg.channels := by
    rw [length_wireVals]
    exact min_le_left _ _
  refine ⟨Memory.wf_writeBytes _ _ hs.buf_wf, fun c hc => ?_, Memory.wf_writeBytes _ _ hs.led_wf, fun c hc => ?_⟩
  · rcases Memory.mem_writeBytes hc with hold | ⟨-, hlt⟩
    · exact hs.buf_inside c hold
    · rw [hlen] at hlt
      exact hlt.trans_le hin
  · rcases Memory.mem_writeBytes hc with hold | ⟨-, hlt⟩
    · exact hs.led_inside c hold
    · exact hlt.trans_le (channels_add_le hi hvals)

/-- Every step keeps both memories canonical and inside the buffer. -/
theorem step_memOk {s t : State} (hs : s.MemOk) (h : step s = .next t) : t.MemOk := by
  rcases step_strip_cases h with same | ⟨c, -, same⟩ | ⟨i, vals, u, hu, same⟩
  · exact same.memOk hs
  · exact same.memOk (State.memOk_powerOn c)
  · exact same.memOk (State.memOk_setLed hs hu)

end Sys2Proof.Machine
end

section
/-! # Responses from step to step (R27, R28, R68, R83, R100) -/

namespace Sys2Proof.Machine

/-- What an accepted command can do (R83): answer for its own word, with 32 data bytes where a ready block's profile is valid,
or write its region and start the frame (R87). -/
theorem exec_decodeWord_cases {w : Word} {s t : State} (h : exec (decodeWord w) s = .next t) :
    (∃ code detail data, t = s.respond w code detail data
        ∧ ((s.ready = true → s.cfg.profileValid = true) → data.length = 32))
    ∨ ∃ index vals u, w = encode (.setBrightness index vals) ∧ s.ready = true ∧ s.setLed (ledIndex index) vals = .ok u
        ∧ t = u.startFrame := by
  have hw := encode_decodeWord w
  by_cases hi : ∃ index vals, decodeWord w = .setBrightness index vals
  · obtain ⟨index, vals, hi⟩ := hi
    rw [hi] at h hw
    rcases execSetBrightness_cases h with ⟨_, rfl⟩ | ⟨_, _, rfl⟩ | ⟨hr, u, hu, rfl⟩
    · exact .inl ⟨_, _, zeros, by rw [hw]; rfl, fun _ => rfl⟩
    · exact .inl ⟨_, _, zeros, by rw [hw]; rfl, fun _ => rfl⟩
    · exact .inr ⟨index, vals, u, hw.symm, hr, hu, rfl⟩
  · obtain ⟨code, data, he, hlen⟩ := exec_answers (i := decodeWord w) s fun index vals e => hi ⟨index, vals, e⟩
    rw [hw] at he
    cases he.symm.trans h
    exact .inl ⟨code, 0, data, rfl, hlen⟩

/-- What the step of an agent that runs no command can do to the responses and the outstanding words: nothing, or, by an
assertion, the reset marker, or the answer that ends a gap. -/
theorem State.perform_responses_cases {s t : State} {a : Action} (ht : s.perform a = .next t) :
    (t.responses = s.responses ∧ t.outstanding = s.outstanding)
    ∨ (a = .assertReset ∧ t.responses = s.responses ++ [.reset])
    ∨ ∃ h w resp, t.responses = s.responses ++ [.answer h w resp] ∧ s.outstandingOf h = some w
        ∧ t.outstanding = Sparse.erase s.outstanding h ∧ t.phase = .idle ∧ resp.data.length = 32 := by
  cases a with
  | period hold =>
    rcases State.period_cases ht with ⟨-, rfl⟩ | ⟨h, k, b, -, -, -, rfl⟩ | ⟨n, o, -, -, rfl⟩
      | ⟨n, -, rfl⟩ | ⟨n, o, w, -, hw, rfl⟩
    · exact .inl ⟨rfl, rfl⟩
    · rcases s.emitBit_cases h k b with ⟨-, e⟩ | ⟨-, e⟩ <;> rw [e] <;> exact .inl ⟨rfl, rfl⟩
    · exact .inl ⟨rfl, rfl⟩
    · exact .inl ⟨rfl, rfl⟩
    · exact .inr (.inr ⟨o.host, w, _, rfl, hw, rfl, rfl, rfl⟩)
  | fault c =>
    cases ht
    rcases s.transportFault_cases c with e | ⟨h, k, -, e⟩ | ⟨n, h, -, e⟩ <;> rw [e] <;> exact .inl ⟨rfl, rfl⟩
  | offer h w =>
    cases ht
    rcases s.offer_cases h w with e | ⟨-, -, e⟩ <;> rw [e] <;> exact .inl ⟨rfl, rfl⟩
  | assertReset => cases ht; exact .inr (.inl ⟨rfl, rfl⟩)
  | read h off width => cases ht; exact .inl ⟨rfl, rfl⟩
  | accept h => cases ht; exact .inl ⟨rfl, rfl⟩
  | releaseReset c => cases ht; exact .inl ⟨rfl, rfl⟩

theorem State.responses_performInReset (s : State) (a : Action) : (s.performInReset a).responses = s.responses := by
  cases a <;> rfl

theorem Sparse.get_erase_self {α : Type} (m : List (Nat × α)) (a : Nat) : Sparse.get (Sparse.erase m a) a = none := by
  rw [Sparse.get_erase, if_pos rfl]

/-- What a step can do to the responses: nothing, the reset marker, or one answer, with 32 data bytes, that ends its host's
command and leaves the engine `Idle`. -/
theorem step_responses_cases {s t : State} (hs : s.InitOk) (h : step s = .next t) :
    t.responses = s.responses ∨ t.responses = s.responses ++ [.reset]
    ∨ ∃ h w resp, t.responses = s.responses ++ [.answer h w resp] ∧ t.outstandingOf h = none ∧ t.phase = .idle
        ∧ (s.outstandingOf h = some w ∨ s.accepted = some (h, w)) ∧ resp.data.length = 32 := by
  rw [← s.popAction_responses]
  rcases step_cases h with ⟨host, w, ha, he⟩ | ⟨-, rfl⟩ | ⟨-, -, hp⟩
  · obtain ⟨-, -, hidle, -, -⟩ := State.accepted_eq_some.1 ha
    have hinit := (s.sameStrip_popAction.trans (s.popAction.sameStrip_take host w)).initOk hs
    rcases exec_decodeWord_cases he with ⟨code, detail, data, rfl, hlen⟩ | ⟨index, vals, u, -, -, hu, rfl⟩
    · exact .inr (.inr ⟨host, w, _, rfl, Sparse.get_erase_self _ _, s.popAction_phase.trans hidle, .inr ha,
        hlen hinit.profileValid⟩)
    · obtain ⟨-, -, -, rfl⟩ := State.setLed_eq_ok.1 hu
      exact .inl rfl
  · exact .inl (s.popAction.responses_performInReset _)
  · rcases State.perform_responses_cases hp with ⟨e, -⟩ | ⟨-, e⟩ | ⟨host, w, resp, e, hw, hout, hidle, hlen⟩
    · exact .inl e
    · exact .inr (.inl e)
    · rw [State.outstandingOf, s.popAction_outstanding] at hw
      refine .inr (.inr ⟨host, w, resp, e, ?_, hidle, .inl hw, hlen⟩)
      rw [State.outstandingOf, hout, Sparse.get_erase_self]

/-- Settles O30: the only answers are an accepted command's at once and a gap's end, and both end their host's command. -/
theorem responseEndsCommand : Obligations.ResponseEndsCommand := by
  intro s t hs h
  refine (step_responses_cases hs.init h).imp_right (Or.imp_right ?_)
  rintro ⟨host, w, resp, e, hout, hidle, hw, -⟩
  exact ⟨host, w, resp, e, hout, hidle, hw⟩

/-- Every step keeps 32 data bytes in every recorded response (R68). -/
theorem step_responsesOk {s t : State} (hinit : s.InitOk) (hs : s.ResponsesOk) (h : step s = .next t) : t.ResponsesOk := by
  intro host w resp hmem
  rcases step_responses_cases hinit h with e | e | ⟨host', w', resp', e, -, -, -, hlen⟩ <;> rw [e] at hmem
  · exact hs host w resp hmem
  · exact hs host w resp (by simpa using hmem)
  · rcases List.mem_append.1 hmem with hmem | hmem
    · exact hs host w resp hmem
    · cases List.mem_singleton.1 hmem
      exact hlen

end Sys2Proof.Machine
end

section
/-! # What each phase means, from step to step (R25, R26, R49, R98) -/

namespace Sys2Proof.Machine

/-! ## What `PhaseMeans` speaks of -/

theorem State.SameStrip.frameImage_eq {s t : State} (h : s.SameStrip t) : t.frameImage = s.frameImage := by
  rw [State.frameImage, State.frameImage, State.frameBytes, State.frameBytes, h.cfg_eq, h.buf_eq]

theorem State.SameStrip.owns {s t : State} (h : s.SameStrip t) (ho : t.outstanding = s.outstanding) {host : HostId}
    (hs : s.Owns host) : t.Owns host := by
  obtain ⟨index, vals, hout, hi, hread⟩ := hs
  refine ⟨index, vals, ho.trans hout, ?_, ?_⟩
  · rwa [h.cfg_eq]
  · rwa [h.memRead_eq, h.cfg_eq]

theorem State.SameStrip.frameEnded {s t : State} (h : s.SameStrip t) {r : FrameResult} {bits : List Bool} {st : FrameStatus}
    (hs : s.FrameEnded r bits st) : t.FrameEnded r bits st := by
  rwa [State.FrameEnded, h.frameImage_eq]

/-- What a phase means rests on the strip, the outstanding words, the frame history and the line, and a low line serves every
phase. -/
theorem State.SameStrip.phaseMeans {s t : State} (h : s.SameStrip t) (ho : t.outstanding = s.outstanding)
    (hf : t.frames = s.frames) (hd : t.dout = s.dout ∨ t.dout = false) {p : Phase} (hs : s.PhaseMeans p) :
    t.PhaseMeans p := by
  have low (hlow : s.dout = false) : t.dout = false := hd.elim (·.trans hlow) id
  match p, hs with
  | .idle, ⟨hout, hlow, hopen⟩ => exact ⟨ho.trans hout, low hlow, hf ▸ hopen⟩
  | .tx host k, ⟨hr, hk, howns, hlow, past, hframes, hopen⟩ =>
    refine ⟨h.ready_eq.trans hr, h.cfg_eq ▸ hk, h.owns ho howns, fun e => low (hlow e), past, ?_, hopen⟩
    rw [hf, h.frameImage_eq, hframes]
  | .gap n none, ⟨hr, hn, hle, hout, hlow, hopen⟩ =>
    exact ⟨h.ready_eq.trans hr, hn, h.cfg_eq ▸ hle, ho.trans hout, low hlow, hf ▸ hopen⟩
  | .gap n (some o), ⟨hr, hn, hle, howns, hlow, past, bits, st, hframes, hopen, hended⟩ =>
    exact ⟨h.ready_eq.trans hr, hn, h.cfg_eq ▸ hle, h.owns ho howns, fun e => low (hlow (h.cfg_eq ▸ e)), past, bits, st,
      hf.trans hframes, hopen, h.frameEnded hended⟩

/-! ## The frame history -/

theorem NoOpenFrame.concat {fs : List FrameEntry} (h : NoOpenFrame fs) {e : FrameEntry}
    (he : ∀ bits, e ≠ .frame bits .inProgress) : NoOpenFrame (fs ++ [e]) := by
  intro bits hmem
  rcases List.mem_append.1 hmem with hmem | hmem
  · exact h bits hmem
  · exact he bits (List.mem_singleton.1 hmem).symm

theorem State.FrameEnded.not_open {s : State} {r : FrameResult} {bits : List Bool} {st : FrameStatus}
    (h : s.FrameEnded r bits st) (bits' : List Bool) : FrameEntry.frame bits st ≠ .frame bits' .inProgress := by
  rcases h with ⟨rfl, -⟩ | ⟨-, rfl, -⟩ <;> nofun

/-- Out of `Tx` no frame is in progress. -/
theorem State.PhaseMeans.noOpenFrame {s : State} {p : Phase} (hs : s.PhaseMeans p) (htx : ∀ h k, p ≠ .tx h k) :
    NoOpenFrame s.frames := by
  match p, hs with
  | .idle, ⟨_, _, hopen⟩ => exact hopen
  | .tx host k, _ => exact absurd rfl (htx host k)
  | .gap n none, ⟨_, _, _, _, _, hopen⟩ => exact hopen
  | .gap n (some o), ⟨_, _, _, _, _, past, bits, st, hframes, hopen, hended⟩ =>
    rw [hframes]
    exact hopen.concat hended.not_open

theorem length_flatMap_wireBits (bs : List Byte) : (bs.flatMap wireBits).length = 8 * bs.length := by
  induction bs with
  | nil => rfl
  | cons b bs ih =>
    rw [List.flatMap_cons, List.length_append, length_wireBits, ih, List.length_cons]
    omega

/-- A frame's image has `L` bits (R94). -/
theorem State.length_frameImage (s : State) : s.frameImage.length = s.cfg.frameBits := by
  rw [State.frameImage, length_flatMap_wireBits, State.frameBytes, Memory.length_readBytes, Config.frameBits]

/-- A host's word alone is outstanding, and its answer leaves none. -/
theorem Sparse.erase_singleton {α : Type} (a : Nat) (v : α) : Sparse.erase [(a, v)] a = [] := by simp [Sparse.erase]

theorem State.Owns.erase_outstanding {s : State} {h : HostId} (hs : s.Owns h) : Sparse.erase s.outstanding h = [] := by
  obtain ⟨index, vals, hout, -⟩ := hs
  rw [hout, Sparse.erase_singleton]

/-! ## A period -/

/-- The emission of a bit of the frame goes on with it, or completes it and starts its gap (R95). -/
theorem State.PhaseMeans.emitBit {s : State} {h : HostId} {k : Nat} {b : Bool} (hs : s.PhaseMeans (.tx h k))
    (hb : s.frameBit k = some b) : (s.emitBit h k b).PhaseOk := by
  obtain ⟨hr, -, howns, -, past, hframes, hopen⟩ := hs
  have same := s.sameStrip_emitBit h k b
  have hpush : updateLast (FrameEntry.push b) s.frames = past ++ [.frame (s.frameImage.take (k + 1)) .inProgress] := by
    rw [hframes, updateLast_append, FrameEntry.push, State.take_succ_frameImage hr hb]
  rcases s.emitBit_cases h k b with ⟨hk, e⟩ | ⟨hk, e⟩ <;> rw [e] at same ⊢
  · refine ⟨hr, hk, same.owns rfl howns, nofun, past, ?_, hopen⟩
    rw [same.frameImage_eq]
    exact hpush
  · have hlatch : 1 ≤ s.cfg.latch := s.cfg.latchIdleClks.property
    refine ⟨hr, hlatch, Nat.le_refl _, same.owns rfl howns, fun hlt => absurd hlt (Nat.lt_irrefl _), past, s.frameImage,
      .complete, ?_, hopen, .inl ⟨rfl, same.frameImage_eq.symm⟩⟩
    rw [State.withPhase_frames, State.markFrame_frames, State.emit_frames, hpush, updateLast_append, FrameEntry.mark,
      List.take_of_length_le (s.length_frameImage.trans_le hk)]

/-- A gap of one period less, the line low (R99). -/
theorem State.PhaseMeans.countdown {s : State} {n : Nat} {owner : Option GapOwner} (hs : s.PhaseMeans (.gap n owner))
    (hn : 1 < n) (hlow : s.dout = false) : s.PhaseMeans (.gap (n - 1) owner) := by
  have hle {m : Nat} (h : n ≤ m) : n - 1 ≤ m := (Nat.sub_le n 1).trans h
  match owner, hs with
  | none, ⟨hr, _, hlatch, hrest⟩ => exact ⟨hr, Nat.le_sub_one_of_lt hn, hle hlatch, hrest⟩
  | some o, ⟨hr, _, hlatch, howns, _, hrest⟩ =>
    exact ⟨hr, Nat.le_sub_one_of_lt hn, hle hlatch, howns, fun _ => hlow, hrest⟩

theorem State.PhaseOk.period {s t : State} {hold : Bool} (hs : s.PhaseOk) (ht : s.period hold = .next t) : t.PhaseOk := by
  have same : s.SameStrip s.lowPeriod := ⟨rfl, rfl, rfl, rfl, rfl⟩
  have low {p : Phase} (h : s.PhaseMeans p) : s.lowPeriod.PhaseMeans p := same.phaseMeans rfl rfl (.inr rfl) h
  unfold State.PhaseOk at hs
  rcases State.period_cases ht with ⟨-, rfl⟩ | ⟨h, k, b, hp, -, hb, rfl⟩ | ⟨n, o, hp, hn, rfl⟩
    | ⟨n, hp, rfl⟩ | ⟨n, o, w, hp, hw, rfl⟩
  · exact low hs
  · rw [hp] at hs
    exact hs.emitBit hb
  · rw [hp] at hs
    exact (low hs).countdown hn rfl
  · rw [hp] at hs
    obtain ⟨-, -, -, hout, -, hopen⟩ := hs
    exact ⟨hout, rfl, hopen⟩
  · rw [hp] at hs
    have hopen := hs.noOpenFrame nofun
    obtain ⟨-, -, -, howns, -⟩ := hs
    exact ⟨howns.erase_outstanding, rfl, hopen⟩

/-! ## The other agents -/

theorem State.FrameEnded.transportError {s : State} {r : FrameResult} {bits : List Bool} {st : FrameStatus}
    (h : s.FrameEnded r bits st) (c : Byte) : s.FrameEnded (.transportError c) bits st :=
  h.imp_right fun ⟨_, haborted⟩ => ⟨nofun, haborted⟩

theorem State.PhaseOk.transportFault {s : State} (hs : s.PhaseOk) (c : Byte) : (s.transportFault c).PhaseOk := by
  have same := s.sameStrip_transportFault c
  unfold State.PhaseOk at hs
  rcases s.transportFault_cases c with e | ⟨h, k, hp, e⟩ | ⟨n, h, hp, e⟩ <;> rw [e] at same ⊢
  · exact hs
  · rw [hp] at hs
    obtain ⟨hr, -, howns, -, past, hframes, hopen⟩ := hs
    have hlatch : 1 ≤ s.cfg.latch := s.cfg.latchIdleClks.property
    refine ⟨hr, hlatch, Nat.le_refl _, same.owns rfl howns, fun hlt => absurd hlt (Nat.lt_irrefl _), past,
      s.frameImage.take k, .aborted, ?_, hopen, .inr ⟨nofun, rfl, ?_⟩⟩
    · rw [State.withPhase_frames, State.markFrame_frames, hframes, updateLast_append, FrameEntry.mark]
    · rw [same.frameImage_eq]
      exact List.take_prefix k _
  · rw [hp] at hs
    obtain ⟨hr, hn, hle, howns, hlow, past, bits, st, hframes, hopen, hended⟩ := hs
    exact ⟨hr, hn, hle, same.owns rfl howns, hlow, past, bits, st, hframes, hopen,
      same.frameEnded (hended.transportError c)⟩

theorem State.PhaseOk.noOpenFrame_abortFrame {s : State} (hs : s.PhaseOk) : NoOpenFrame s.abortFrame.frames := by
  unfold State.PhaseOk at hs
  unfold State.abortFrame
  split
  next h k hp =>
    rw [hp] at hs
    obtain ⟨-, -, -, -, past, hframes, hopen⟩ := hs
    rw [State.markFrame_frames, hframes, updateLast_append]
    exact hopen.concat nofun
  next hp => exact hs.noOpenFrame (by rw [hp]; nofun)
  next hp => exact hs.noOpenFrame (by rw [hp]; nofun)

theorem State.PhaseOk.perform {s t : State} {a : Action} (hs : s.PhaseOk) (ht : s.perform a = .next t) : t.PhaseOk := by
  have same := State.sameStrip_perform ht
  cases a with
  | period hold => exact hs.period ht
  | fault c => cases ht; exact hs.transportFault c
  | offer h w =>
    cases ht
    rcases s.offer_cases h w with e | ⟨-, -, e⟩ <;> rw [e] at same ⊢
    · exact hs
    · exact same.phaseMeans rfl rfl (.inl rfl) hs
  | assertReset => cases ht; exact ⟨rfl, rfl, hs.noOpenFrame_abortFrame.concat nofun⟩
  | read h off width => cases ht; exact same.phaseMeans rfl rfl (.inl rfl) hs
  | accept h => cases ht; exact hs
  | releaseReset c => cases ht; exact hs

/-- A release keeps the history and starts at most the gap that nobody owns (R129). -/
theorem State.phaseOk_releaseReset {s : State} (c : Config) (hopen : NoOpenFrame s.frames) : (s.releaseReset c).PhaseOk := by
  change State.PhaseMeans _ (if c.initReady then .gap c.latch none else .idle)
  split_ifs with hr
  · exact ⟨hr, c.latchIdleClks.property, Nat.le_refl _, rfl, rfl, hopen⟩
  · exact ⟨rfl, rfl, hopen⟩

theorem State.PhaseOk.performInReset {s : State} (hs : s.PhaseOk) (hidle : s.phase = .idle) (a : Action) :
    (s.performInReset a).PhaseOk := by
  cases a with
  | releaseReset c => exact State.phaseOk_releaseReset c (State.PhaseMeans.noOpenFrame hs (by rw [hidle]; nofun))
  | _ => exact hs

/-! ## A command -/

/-- A command taken into service in `Idle` is answered, or its host owns the frame it starts. -/
theorem exec_phaseOk {s t : State} {h : HostId} {w : Word} (hinit : s.InitOk) (hs : s.PhaseOk) (hidle : s.phase = .idle)
    (he : exec (decodeWord w) (s.take h w) = .next t) : t.PhaseOk := by
  rw [State.PhaseOk, hidle] at hs
  obtain ⟨hout, hlow, hopen⟩ := hs
  have hserved : (s.take h w).outstanding = [(h, w)] := by rw [State.take_outstanding, hout]; rfl
  rcases exec_decodeWord_cases he with ⟨code, detail, data, rfl, -⟩ | ⟨index, vals, u, rfl, hr, hu, rfl⟩
  · rw [State.PhaseOk, State.respond_phase, State.take_phase, hidle]
    refine ⟨?_, hlow, hopen⟩
    rw [State.respond_outstanding, hserved, State.take_serving, Sparse.erase_singleton]
  · have hregion := State.memRead_region_of_setLed hu
    obtain ⟨hi, -, -, rfl⟩ := State.setLed_eq_ok.1 hu
    exact ⟨hr, frameBits_pos (hinit.profileValid hr) hi, ⟨index, vals, hserved, hi, hregion⟩, fun _ => hlow, s.frames, rfl,
      hopen⟩

/-- Every step of every agent keeps the meaning of the phase. -/
theorem step_phaseOk {s t : State} (hs : s.Inv) (h : step s = .next t) : t.PhaseOk := by
  have strip := s.sameStrip_popAction
  have pop : s.popAction.PhaseOk := by
    rw [State.PhaseOk, s.popAction_phase]
    exact strip.phaseMeans s.popAction_outstanding s.popAction_frames (.inl s.popAction_dout) hs.phase
  rcases step_cases h with ⟨host, w, ha, he⟩ | ⟨hr, rfl⟩ | ⟨-, -, hp⟩
  · obtain ⟨-, -, hidle, -, -⟩ := State.accepted_eq_some.1 ha
    exact exec_phaseOk (strip.initOk hs.init) pop (s.popAction_phase.trans hidle) he
  · exact pop.performInReset (s.popAction_phase.trans (hs.ports.reset_idle hr).1) _
  · exact pop.perform hp

/-! ## The invariant -/

theorem step_inv {s t : State} (hs : s.Inv) (h : step s = .next t) : t.Inv where
  init := step_initOk hs.init h
  mem := step_memOk hs.mem h
  ports := step_portsOk hs.ports h
  phase := step_phaseOk hs h
  reflects := step_reflectsLed hs.init hs.reflects h
  responses := step_responsesOk hs.init hs.responses h

/-- Settles O52: every part of the invariant is kept by every step. -/
theorem stepKeepsInv : Obligations.StepKeepsInv := fun _ _ => step_inv

/-- Settles O53: progress rests on `State.Live`, a part of the invariant. -/
theorem stepNeverStops : Obligations.StepNeverStops := fun _ hs => hs.live.step_next

/-- A reset release leaves a good state, whatever configuration it samples. -/
theorem State.inv_powerOn (c : Config) : (State.powerOn c).Inv where
  init := ⟨rfl, rfl⟩
  mem := State.memOk_powerOn c
  ports := ⟨.nil, .nil, fun _ _ => rfl, fun h => absurd h Bool.false_ne_true⟩
  phase := State.phaseOk_releaseReset (s := State.powerOn c) c nofun
  reflects := State.reflectsLed_powerOn c
  responses := nofun

/-- Settles O51: `State.reset` is the state after a release of the model's own configuration. -/
theorem powerOnIsGood : Obligations.PowerOnIsGood := ⟨State.inv_powerOn, State.inv_powerOn _⟩

end Sys2Proof.Machine
end

section
/-! # Words on a byte-wide channel, and written-out words (R41, R42, R58) -/

namespace Sys2Proof

theorem getElem?_toBytesLE {n k j : Nat} (v : BitVec n) (hj : j < k) : (toBytesLE k v)[j]? = some (v.extractLsb' (8 * j) 8) := by
  rw [toBytesLE, List.getElem?_map, List.getElem?_range hj, Option.map_some]

/-- The lowest byte comes first, then the bytes of what is above it. -/
theorem toBytesLE_succ {n : Nat} (k : Nat) (v : BitVec n) :
    toBytesLE (k + 1) v = v.extractLsb' 0 8 :: toBytesLE k (v >>> 8) := by
  rw [toBytesLE, List.range_succ_eq_map, List.map_cons, List.map_map, toBytesLE]
  refine congrArg _ (List.map_congr_left fun j _ => BitVec.eq_of_toNat_eq ?_)
  simp only [Function.comp_apply, BitVec.extractLsb'_toNat, BitVec.toNat_ushiftRight, ← Nat.shiftRight_add, Nat.mul_succ,
    Nat.add_comm]

/-- `k` bytes hold the low `8 * k` bits. -/
theorem ofBytesLE_toBytesLE {n : Nat} (k : Nat) (v : BitVec n) : ofBytesLE (toBytesLE k v) = v.toNat % 2 ^ (8 * k) := by
  induction k generalizing v with
  | zero => rw [Nat.mul_zero, Nat.pow_zero, Nat.mod_one]; rfl
  | succ k ih =>
    have split : v.toNat % (2 ^ 8 * 2 ^ (8 * k)) = v.toNat % 2 ^ 8 + 256 * (v.toNat / 2 ^ 8 % 2 ^ (8 * k)) :=
      Nat.mod_mul
    rw [toBytesLE_succ, ofBytesLE, ih, toNat_field, BitVec.toNat_ushiftRight, Nat.shiftRight_eq_div_pow, Nat.mul_succ,
      Nat.add_comm (8 * k), Nat.pow_add, split, Nat.pow_zero, Nat.div_one]

/-- Settles O5: the eight bytes of a word make its number again. -/
theorem byteChannelLittleEndian : Obligations.ByteChannelLittleEndian := by
  refine ⟨fun n k j v hj => getElem?_toBytesLE v hj, fun w => ?_, fun bs hlen => if_neg hlen⟩
  have length : (toBytesLE 8 w).length = 8 := by simp [toBytesLE]
  rw [decodeBytes, if_pos length, ofBytesLE_toBytesLE, Nat.mod_eq_of_lt w.isLt, BitVec.ofNat_toNat, BitVec.setWidth_eq]

/-- Settles O4: the decoder evaluated on the ten words. -/
theorem writtenWordsDecode : Obligations.WrittenWordsDecode := by
  refine ⟨?_, ?_, ?_, ?_, ?_, ?_, ?_, ?_, ?_, ?_⟩ <;> decide

end Sys2Proof
end

section
/-! # An assembled `setb` (R70) -/

namespace Sys2Proof.Machine

theorem argsOk_eq_false {args : List (Role × Nat)} {q : Role} {v : Nat} (hmem : (q, v) ∈ args) (hv : 255 < v) :
    argsOk args = false := by
  have hall : (args.all fun a => decide (a.2 ≤ 255)) = false :=
    List.all_eq_false.2 ⟨(q, v), hmem, by simpa using hv⟩
  rw [argsOk, hall, Bool.and_false]

/-- The four named values in any other order are found by their names. -/
theorem argVals_reordered (r g b w : Nat) : argVals [(.b, b), (.w, w), (.r, r), (.g, g)] =
    { r := BitVec.ofNat 8 r, g := BitVec.ofNat 8 g, b := BitVec.ofNat 8 b, w := BitVec.ofNat 8 w } := rfl

/-- Settles O8: in range the line assembles to the command's word, which decodes to it; a literal out of its range fails the
assembler's test. -/
theorem assembledUpdateDecodes : Obligations.AssembledUpdateDecodes := by
  refine ⟨fun i r g b w hi hr hg hb hw => ?_, fun i args hi => ?_, fun i args q v hmem hv => ?_⟩
  · have hargs : argsOk [(.b, b), (.w, w), (.r, r), (.g, g)] = true := by simp [argsOk, hr, hg, hb, hw]
    exact ⟨_, if_pos ⟨hi, hargs⟩, by rw [argVals_reordered, decodeWord_encode_setBrightness]⟩
  · exact if_neg fun ⟨hlt, _⟩ => Nat.not_lt.2 hi hlt
  · exact if_neg fun ⟨_, hargs⟩ => by rw [argsOk_eq_false hmem hv] at hargs; cases hargs

end Sys2Proof.Machine
end

section
/-! # What each command answers and what it leaves unchanged (R77, R82, R87, R106, R110, R111) -/

namespace Sys2Proof.Machine

/-! ## Answers -/

/-- Settles O20: the `ready` test comes first in every command. -/
theorem notReadyAnswersEverything : Obligations.NotReadyAnswersEverything := fun i _ hr => exec_of_not_ready i hr

/-- Settles O12: `ready` or not, NOP answers its word with no data. -/
theorem nopAnswers : Obligations.NopAnswers := by
  intro ignored s
  rw [exec_nop, State.whenReady_respond, ite_self]
  rfl

/-- Settles O13: the eight symbols leave 24 bytes of padding. -/
theorem encodeAnswers : Obligations.EncodeAnswers := by
  intro value lo hi s hr
  rw [exec_encode, State.whenReady_of_ready _ _ hr, padData, length_encodeSymbols]
  rfl

/-- Settles O14: the pixel's block is as long as PIXEL_SYMBOL_SIZE says, since the profile of a ready block is valid. -/
theorem formatAnswers : Obligations.FormatAnswers := by
  intro vals lo s hs hr
  rw [exec_format, State.whenReady_of_ready _ _ hr, padData, length_formatPixel vals (hs.profileValid hr)]
  rfl

/-- Settles O18: all six rows have the one meaning `answerIllegal`. -/
theorem illegalWordsAnswered : Obligations.IllegalWordsAnswered := by
  intro op rsv rest s i hr hi
  have meaning : exec i s = s.answerIllegal (encode i) := by
    simp only [List.mem_cons, List.not_mem_nil, or_false] at hi
    rcases hi with rfl | rfl | rfl | rfl | rfl | rfl <;> rfl
  rw [meaning, State.answerIllegal_of_ready _ hr]
  rfl

/-- Settles O15: `set_led` writes the values and the region, and the frame starts. -/
theorem setBrightnessStartsFrame : Obligations.SetBrightnessStartsFrame := by
  intro index vals s hs hr hi
  obtain ⟨u, hu, he⟩ := exec_setBrightness_inRange vals hs hr hi
  obtain ⟨-, -, -, rfl⟩ := State.setLed_eq_ok.1 hu
  exact he

/-! ## Frames -/

/-- An answer ends the served host's command and no other's. -/
theorem State.outstandingOf_respond (s : State) (w : Word) (code : RespCode) (detail : Byte) (data : List Byte) (h : HostId) :
    (s.respond w code detail data).outstandingOf h = if h = s.serving then none else s.outstandingOf h :=
  Sparse.get_erase s.outstanding s.serving h

/-- Settles O22: an answering command is one `respond`, which leaves the strip, the phase, the line and the ports alone. -/
theorem answeringCommandsFrame : Obligations.AnsweringCommandsFrame := by
  intro i s t hi h
  obtain ⟨code, data, he, -⟩ := exec_answers s hi
  cases he.symm.trans h
  have strip := s.sameStrip_respond (encode i) code 0 data
  exact ⟨rfl, rfl, rfl, strip.memByte_eq, strip.ledVals_eq, rfl, rfl, rfl,
    fun h hne => by rw [State.outstandingOf_respond, if_neg hne], by rw [State.outstandingOf_respond, if_pos rfl],
    ⟨_, rfl⟩, rfl, rfl, rfl, rfl, rfl, rfl, rfl⟩

/-- Settles O23: SET_BRIGHTNESS is one answer, or `set_led` and the start of a frame. -/
theorem setBrightnessFrame : Obligations.SetBrightnessFrame := by
  intro index vals s t h
  rcases exec_cases h with ⟨-, w, code, detail, data, rfl⟩ | ⟨_, _, u, hi, -, hu, rfl⟩
  · have strip := s.sameStrip_respond w code detail data
    exact ⟨rfl, rfl, rfl, rfl, fun a _ => strip.memByte_eq a, fun j _ => strip.ledVals_eq j,
      fun host hne => by rw [State.outstandingOf_respond, if_neg hne], rfl, rfl, rfl, rfl, rfl, rfl, rfl,
      .inr ⟨rfl, rfl, rfl, rfl⟩⟩
  · cases hi
    have strip := u.sameStrip_startFrame
    have region {a : Nat} := State.memByte_of_setLed (a := a) hu
    have values {j : Nat} := State.ledVals_of_setLed_of_ne (j := j) hu
    obtain ⟨-, -, -, rfl⟩ := State.setLed_eq_ok.1 hu
    exact ⟨rfl, rfl, rfl, rfl, fun a ha => (strip.memByte_eq a).trans (region ha),
      fun j hj => (strip.ledVals_eq j).trans (values hj), fun _ _ => rfl, rfl, rfl, rfl, rfl, rfl, rfl, rfl,
      .inl ⟨rfl, rfl⟩⟩

end Sys2Proof.Machine
end

section
/-! # Acceptance, the ports and the block's own step (R49, R52, R53, R83, R93, R96) -/

namespace Sys2Proof.Machine

/-- Settles O24: the acceptance is enabled, and taking the host into service is `State.take`. -/
theorem stepRunsDecodedCommand : Obligations.StepRunsDecodedCommand := by
  intro s h w ht hidle hout hwait
  obtain ⟨hr, hnext⟩ := ht
  have hstep := step_of_accepted (State.accepted_eq_some.2 ⟨hr, hnext, hidle, hout, hwait⟩)
  rw [← s.popAction_outstanding, ← s.popAction_waiting]
  refine ⟨hstep, fun i hi e => ?_⟩
  rw [e, decodeAfterEncode i hi] at hstep
  rw [e]
  exact hstep

/-- Settles O25: a busy engine accepts nothing, and an acceptance that is not enabled is no event. -/
theorem busyEngineStalls : Obligations.BusyEngineStalls := by
  intro s h ht hbusy
  obtain ⟨hr, hnext⟩ := ht
  rw [step_of_perform hr (State.accepted_of_busy hbusy), hnext]
  rfl

theorem State.waitingOf_popAction (s : State) (h : HostId) : s.popAction.waitingOf h = s.waitingOf h := by
  rw [State.waitingOf, s.popAction_waiting, State.waitingOf]

theorem State.outstandingOf_popAction (s : State) (h : HostId) : s.popAction.outstandingOf h = s.outstandingOf h := by
  rw [State.outstandingOf, s.popAction_outstanding, State.outstandingOf]

/-- Settles O26: the step of an offer is `State.offer`, whose test is that the host has no command in flight. -/
theorem offeredCommandWaits : Obligations.OfferedCommandWaits := by
  intro s h w ht
  have hstep : step s = .next (s.popAction.offer h w) := step_of_turn ht nofun
  rw [hstep, State.offer, s.waitingOf_popAction, s.outstandingOf_popAction]
  refine ⟨fun hwait hout => ?_, fun hbusy => ?_⟩
  · rw [if_pos ⟨hwait, hout⟩]
    refine ⟨_, rfl, ?_, fun h' hne => ?_, rfl⟩
    · rw [State.waitingOf_put, if_pos rfl]
    · rw [State.waitingOf_put, if_neg hne, s.waitingOf_popAction]
  · rw [if_neg fun ⟨hwait, hout⟩ => hbusy.elim (· hwait) (· hout)]

/-- Settles O27: the block chooses a command that waits, in `Idle`, or a period; a host that waits has none outstanding. -/
theorem ownActionIsEnabled : Obligations.OwnActionIsEnabled := by
  intro s hs hagenda
  rw [State.nextAction_nil hagenda]
  rcases s.ownAction_cases with ⟨c, hc, hidle, -, hown⟩ | ⟨hold, hown, -⟩
  · have hwait : s.waitingOf c.1 = some c.2 := Sparse.get_of_mem hs.waiting_sorted hc
    exact .inr ⟨c.1, c.2, hown, hidle, hwait, hs.blocking c.1 (hwait ▸ Option.some_ne_none _)⟩
  · exact .inl ⟨hold, hown⟩

/-- A held period before bit 0 is a low period (R96). -/
theorem step_of_held {s : State} {h : HostId} (ht : s.Turn (.period true)) (hp : s.phase = .tx h 0) :
    step s = .next s.popAction.lowPeriod := by
  rw [step_of_period ht, State.period_of_tx (s.popAction_phase.trans hp)]
  rfl

/-- Settles O32: a held period before bit 0 is a low period, and a hold is read nowhere else. -/
theorem startLatencyIsLow : Obligations.StartLatencyIsLow := by
  refine ⟨fun s h ht hp => step_of_held ht hp, fun s h k hold hp => ?_⟩
  have emits (hold : Bool) : ¬(k + 1 = 0 ∧ hold = true) := fun ⟨h0, _⟩ => k.succ_ne_zero h0
  rw [State.period_of_tx hp, State.period_of_tx hp, State.txPeriod, if_neg (emits hold), State.txPeriod,
    if_neg (emits false)]

/-- Settles O50: a read's step only records its answer. -/
theorem readsHaveNoSideEffect : Obligations.ReadsHaveNoSideEffect := fun _ _ _ _ ht => step_of_read ht

end Sys2Proof.Machine
end

section
/-! # Reset (R126 to R131) -/

namespace Sys2Proof.Machine

/-! ## Under reset -/

/-- Settles O44: under reset the release alone is an event. -/
theorem noStepWhileReset : Obligations.NoStepWhileReset := by
  intro s hr hnot
  rw [step_in_reset hr]
  cases ha : s.nextAction with
  | releaseReset c => exact absurd ha (hnot c)
  | _ => rfl

/-! ## Release -/

/-- After a release every byte of a ready block's buffer is `ZERO_SYMBOL`, and a block that is not ready has none (R129). -/
theorem State.memByte_powerOn (c : Config) (a : Nat) :
    (State.powerOn c).memByte a = if c.initReady = true ∧ a < c.frameBytes then some c.zeroSymbol else none := by
  rw [State.memByte, State.bufSize]
  cases hr : c.initReady with
  | true => simp [State.powerOn, hr]
  | false => simp [State.powerOn, hr]

theorem State.ledValue_powerOn (c : Config) (i k : Nat) : (State.powerOn c).ledValue i k = 0 := Memory.read_nil 0 _

theorem State.sameStrip_releaseReset (s : State) (c : Config) : (State.powerOn c).SameStrip (s.releaseReset c) :=
  ⟨rfl, rfl, rfl, rfl, rfl⟩

/-- Settles O42: a release is the state after power-on but for the histories and the model's own fields. -/
theorem resetReleaseSetsState : Obligations.ResetReleaseSetsState := by
  intro s c hr hnext
  refine ⟨_, step_of_releaseReset hr hnext, rfl, rfl, rfl, State.releaseReset_ready _ c, fun _ => rfl, fun _ => rfl, rfl,
    fun a => ?_, State.ledValue_powerOn c, rfl, s.popAction_frames, s.popAction_responses, s.popAction_reads, rfl, rfl⟩
  exact ((s.popAction.sameStrip_releaseReset c).memByte_eq a).trans (State.memByte_powerOn c a)

/-- STATUS after a reset release: 3, or the error's code in its field (R29). -/
theorem statusReg_powerOn_eq_ite (c : Config) : (State.powerOn c).statusReg =
    if c.initCheck = .noError then (3 : Reg32) else (c.initCheck.code.setWidth 32) <<< 2 := by
  rw [statusReg_powerOn]
  cases c.initCheck <;> rfl

/-- Settles O45: the fields of the state after power-on, and those of the configuration the model chooses evaluated. -/
theorem resetValues : Obligations.ResetValues := by
  refine ⟨fun c => ?_, rfl, by decide, by decide⟩
  have hready : c.initReady = true ↔ c.initCheck = .noError := decide_eq_true_iff
  refine ⟨rfl, hready, fun a => ?_, State.ledValue_powerOn c, ?_, rfl, fun _ => rfl, rfl, rfl, statusReg_powerOn_eq_ite c⟩
  · rw [State.memByte_powerOn]
    exact if_congr (and_congr_left' hready) rfl rfl
  · exact if_congr hready rfl rfl

/-! ## Assertion -/

theorem State.abortFrame_of_tx {s : State} {h : HostId} {k : Nat} (hp : s.phase = .tx h k) :
    s.abortFrame = s.markFrame .aborted := by
  rw [State.abortFrame, hp]

theorem State.abortFrame_of_not_tx {s : State} (hp : ∀ h k, s.phase ≠ .tx h k) : s.abortFrame = s := by
  unfold State.abortFrame
  split
  next h k htx => exact absurd htx (hp h k)
  all_goals rfl

/-- Settles O43: an assertion empties the ports and keeps the strip, and a frame on the line is marked aborted with its bits. -/
theorem resetAssertDropsCommands : Obligations.ResetAssertDropsCommands := by
  intro s ht
  have strip := s.sameStrip_popAction.trans s.popAction.sameStrip_assertReset
  refine ⟨s.popAction.assertReset, step_of_turn ht nofun, rfl, rfl, fun _ => rfl, fun _ => rfl, ?_, strip.buf_eq,
    strip.led_eq, fun h k past bits hp hf => ?_, fun hnot => ?_⟩
  · exact congrArg (· ++ [.reset]) s.popAction_responses
  all_goals change s.popAction.abortFrame.frames ++ [.reset] = _
  · rw [State.abortFrame_of_tx (s.popAction_phase.trans hp), State.markFrame_frames, s.popAction_frames, hf,
      updateLast_append, FrameEntry.mark, List.append_assoc]
    rfl
  · rw [← s.popAction_phase] at hnot
    rw [State.abortFrame_of_not_tx hnot, s.popAction_frames]

end Sys2Proof.Machine
end

section
/-! # A whole frame and a whole gap (R94 to R100) -/

namespace Sys2Proof.Machine

/-- The step that emits the last bit completes the frame and starts its gap (R95). -/
theorem step_completes_frame {s : State} {h : HostId} {j : Nat} {past : List FrameEntry} {rest : List Action}
    (hr : s.resetAsserted = false) (hready : s.ready = true) (hp : s.phase = .tx h j)
    (hf : s.frames = past ++ [.frame (s.frameImage.take j) .inProgress]) (hj : s.cfg.frameBits = j + 1)
    (ha : s.agenda = Action.period false :: rest) :
    ∃ b, s.frameBit j = some b ∧ step s = .next
      { s with
        agenda := rest
        dout := b
        frames := past ++ [.frame s.frameImage .complete]
        phase := .gap s.cfg.latch (some { host := h, result := .ok }) } := by
  obtain ⟨b, hb⟩ := State.frameBit_of_ready hready (k := j) (by omega)
  refine ⟨b, hb, ?_⟩
  have hcomplete : updateLast (FrameEntry.mark .complete) (updateLast (FrameEntry.push b) s.frames)
      = past ++ [.frame s.frameImage .complete] := by
    rw [hf, updateLast_append, updateLast_append, FrameEntry.push, FrameEntry.mark, ← State.take_succ_frameImage hready hb,
      List.take_of_length_le (s.length_frameImage.trans hj).le]
  rw [step_of_emit (State.turn_of_agenda hr ha) hp (fun _ => rfl) hb, State.emitBit, State.popAction_cfg,
    if_neg (by omega), State.popAction_cons ha, ← hcomplete]
  rfl

/-- A frame from its start: after the start latency, `L` periods put its whole image on the line. -/
theorem run_whole_frame {s : State} {h : HostId} {lead : Nat} {past : List FrameEntry} {rest : List Action}
    (hr : s.resetAsserted = false) (hready : s.ready = true) (hbits : 0 < s.cfg.frameBits) (hp : s.phase = .tx h 0)
    (hf : s.frames = past ++ [.frame [] .inProgress])
    (ha : s.agenda = List.replicate lead (Action.period true) ++ (List.replicate s.cfg.frameBits (Action.period false) ++ rest)) :
    ∃ d, s.frameBit (s.cfg.frameBits - 1) = some d ∧ core.run (lead + s.cfg.frameBits) s = .next
      { s with
        agenda := rest
        dout := d
        frames := past ++ [.frame s.frameImage .complete]
        phase := .gap s.cfg.latch (some { host := h, result := .ok }) } := by
  obtain ⟨j, hj⟩ := Nat.exists_eq_add_of_le' hbits
  rw [hj, List.replicate_succ', List.append_assoc] at ha
  obtain ⟨d, hfirst⟩ := run_emits_first_bits hr hready hp hf (hj ▸ Nat.lt_succ_self j) ha
  obtain ⟨b, hb, hlast⟩ := step_completes_frame (s := { s with
    agenda := [Action.period false] ++ rest
    dout := d
    frames := past ++ [.frame (s.frameImage.take j) .inProgress]
    phase := .tx h j }) hr hready rfl rfl hj rfl
  rw [hj]
  exact ⟨b, hb, (core_run_add 1 hfirst).trans (core_run_succ 0 hlast)⟩

/-- Settles O36: the frame's last bit is the last of its image, and the run leaves it on the line. -/
theorem wholeFrameTransmitted : Obligations.WholeFrameTransmitted := by
  intro s h lead rest past hr hready hbits hp hf ha
  obtain ⟨d, hd, hrun⟩ := run_whole_frame hr hready hbits hp hf ha
  refine ⟨_, hrun, rfl, s.length_frameImage, ?_⟩
  rw [List.getLast?_eq_getElem?, s.length_frameImage, State.getElem?_frameImage hready]
  exact hd

/-- Settles O37: the countdown, and its last period, which ends the gap with its owner's answer or with none. -/
theorem wholeGapRuns : Obligations.WholeGapRuns := by
  intro s n rest hr hn ha
  refine ⟨fun owner m hp hm hlt => ?countdown, fun hp => ?afterReset, fun o w hp hw => run_gap_answer hr hn hp hw ha⟩
  case countdown =>
    obtain ⟨k, rfl⟩ := Nat.exists_eq_add_of_lt hlt
    rw [Nat.add_assoc] at hp ha ⊢
    rw [List.replicate_add, List.append_assoc] at ha
    rw [run_gap_countdown hr hp ha, if_neg (Nat.ne_of_gt hm), Nat.add_sub_cancel_left]
  case afterReset =>
    obtain ⟨m, rfl⟩ := Nat.exists_eq_add_of_le' hn
    rw [List.replicate_succ', List.append_assoc] at ha
    obtain ⟨-, last, -⟩ := gapPeriod
    refine (core_run_add 1 (run_gap_countdown (n := 0) hr hp ha)).trans (core_run_succ 0 ?_)
    exact last _ false (State.turn_of_agenda hr rfl) rfl

end Sys2Proof.Machine
end

section
/-! # A whole update without a fault, and its repetition (R87, R90, R105) -/

namespace Sys2Proof.Machine

/-- A frame from its start and its gap, with no fault: the entry holds the whole image, the owner is answered `OK`, and nothing
else changes (R96, R97, R100). -/
theorem run_sent_frame {s : State} {h : HostId} {w : Word} {lead : Nat} {past : List FrameEntry} {rest : List Action}
    (hr : s.resetAsserted = false) (hready : s.ready = true) (hbits : 0 < s.cfg.frameBits) (hp : s.phase = .tx h 0)
    (hf : s.frames = past ++ [.frame [] .inProgress]) (hw : s.outstandingOf h = some w)
    (ha : s.agenda = List.replicate lead (Action.period true)
      ++ (List.replicate (s.cfg.frameBits + s.cfg.latch) (Action.period false) ++ rest)) :
    core.run (lead + s.cfg.frameBits + s.cfg.latch) s = .next
      { s with
        agenda := rest
        dout := false
        phase := .idle
        frames := past ++ [.frame s.frameImage .complete]
        responses := s.responses ++ [.answer h w { code := .ok, detail := 0, data := List.replicate 32 0 }]
        outstanding := Sparse.erase s.outstanding h } := by
  rw [List.replicate_add, List.append_assoc] at ha
  obtain ⟨d, -, hframe⟩ := run_whole_frame hr hready hbits hp hf ha
  have hgap := run_gap_answer (o := ⟨h, .ok⟩) (s := { s with
    agenda := List.replicate s.cfg.latch (Action.period false) ++ rest
    dout := d
    frames := past ++ [.frame s.frameImage .complete]
    phase := .gap s.cfg.latch (some { host := h, result := .ok }) }) hr s.cfg.latchIdleClks.property rfl hw rfl
  exact (core_run_add _ hframe).trans hgap

/-- The strip buffer after LED `index` is set to `vals` (R85). -/
def State.updatedBuf (s : State) (index : BitVec 24) (vals : ChannelValues) : List Host.Cell :=
  Memory.writeBytes s.cfg.zeroSymbol s.buf (index.toNat * s.cfg.pixelSymbolSize) (formatPixel s.cfg vals)

/-- The LED values after LED `index` is set to `vals` (R85). -/
def State.updatedLed (s : State) (index : BitVec 24) (vals : ChannelValues) : List Host.Cell :=
  Memory.writeBytes 0 s.led (index.toNat * s.cfg.channels) (wireVals s.cfg vals)

/-- An `Idle` state after host `h`'s in-range update has run to its end without a fault, the agenda `rest` left: the region is
written, the whole buffer sent, `h` answered. -/
def State.afterUpdate (s : State) (h : HostId) (index : BitVec 24) (vals : ChannelValues) (rest : List Action) : State :=
  { s with
    buf := s.updatedBuf index vals
    led := s.updatedLed index vals
    phase := .idle
    dout := false
    outstanding := []
    waiting := Sparse.erase s.waiting h
    serving := h
    frames := s.frames ++ [.frame ({ s with buf := s.updatedBuf index vals } : State).frameImage .complete]
    responses := s.responses ++
      [.answer h (encode (.setBrightness index vals)) { code := .ok, detail := 0, data := List.replicate 32 0 }]
    agenda := rest }

/-- A waiting in-range update that is accepted next runs to its end (R87, R105). -/
theorem run_update {s : State} {h : HostId} {index : BitVec 24} {vals : ChannelValues} {lead : Nat} {rest : List Action}
    (hinv : s.Inv) (hr : s.resetAsserted = false) (hready : s.ready = true) (hidle : s.phase = .idle)
    (hwait : s.waitingOf h = some (encode (.setBrightness index vals))) (hi : index.toNat < s.cfg.leds)
    (hag : s.agenda = Action.accept h :: (List.replicate lead (Action.period true)
      ++ (List.replicate (s.cfg.frameBits + s.cfg.latch) (Action.period false) ++ rest))) :
    core.run (1 + (lead + s.cfg.frameBits + s.cfg.latch)) s = .next (s.afterUpdate h index vals rest) := by
  have hout := hinv.outstanding_of_idle hidle
  have hacc : s.accepted = some (h, encode (.setBrightness index vals)) :=
    State.accepted_eq_some.2 ⟨hr, State.nextAction_cons hag, hidle, by rw [State.outstandingOf, hout]; rfl, hwait⟩
  obtain ⟨u, hu, hstep⟩ := step_accepts_update hinv.init hready hi hacc
  rw [State.popAction_cons hag] at hu
  obtain ⟨-, -, -, rfl⟩ := State.setLed_eq_ok.1 hu
  have hserved (w : Word) : (s.take h w).outstandingOf h = some w := by rw [State.outstandingOf_take, if_pos rfl]
  have hanswered (w : Word) : Sparse.erase (Sparse.put s.outstanding h w) h = [] := by
    rw [hout]
    exact Sparse.erase_singleton h w
  have hbits := frameBits_pos (hinv.init.profileValid hready) hi
  have hrun := (core_run_succ _ hstep).trans (run_sent_frame hr hready hbits rfl rfl (hserved _) rfl)
  rw [Nat.add_comm 1, State.afterUpdate, ← hanswered (encode (.setBrightness index vals))]
  exact hrun

/-- Settles O38: the run ends in `State.afterUpdate`. -/
theorem updateRunsToOk : Obligations.UpdateRunsToOk := by
  intro s h index vals lead rest hinv hr hready hidle hwait hi hag
  exact ⟨_, run_update hinv hr hready hidle hwait hi hag, rfl, rfl, rfl, rfl, rfl, rfl, rfl⟩

/-! ## Twice the same -/

/-- Writing the same sequence again stores the bytes already there. -/
theorem Memory.writeBytes_writeBytes {d : Byte} {m : List Host.Cell} (a : Nat) (bs : List Byte) (h : Memory.wf d m) :
    Memory.writeBytes d (Memory.writeBytes d m a bs) a bs = Memory.writeBytes d m a bs := by
  have once := Memory.wf_writeBytes a bs h
  refine Memory.ext (Memory.wf_writeBytes a bs once) once fun b => ?_
  rw [Memory.read_writeBytes]
  split_ifs with hb
  · rw [Memory.read_writeBytes, if_pos hb]
  · rfl

theorem State.MemOk.afterUpdate_twice_buf {s : State} (hs : s.MemOk) (h h' : HostId) (index : BitVec 24) (vals : ChannelValues)
    (rest rest' : List Action) :
    ((s.afterUpdate h index vals rest).afterUpdate h' index vals rest').buf = (s.afterUpdate h index vals rest).buf :=
  Memory.writeBytes_writeBytes _ _ hs.buf_wf

theorem State.MemOk.afterUpdate_twice_led {s : State} (hs : s.MemOk) (h h' : HostId) (index : BitVec 24) (vals : ChannelValues)
    (rest rest' : List Action) :
    ((s.afterUpdate h index vals rest).afterUpdate h' index vals rest').led = (s.afterUpdate h index vals rest).led :=
  Memory.writeBytes_writeBytes _ _ hs.led_wf

/-- The frame an update sends is the buffer it leaves. -/
theorem State.afterUpdate_frames (s : State) (h : HostId) (index : BitVec 24) (vals : ChannelValues) (rest : List Action) :
    (s.afterUpdate h index vals rest).frames
      = s.frames ++ [.frame (s.afterUpdate h index vals rest).frameImage .complete] := rfl

/-- The second of two equal updates sends what the first sent. -/
theorem State.MemOk.afterUpdate_twice_frames {s : State} (hs : s.MemOk) (h h' : HostId) (index : BitVec 24)
    (vals : ChannelValues) (rest rest' : List Action) :
    ((s.afterUpdate h index vals rest).afterUpdate h' index vals rest').frames
      = s.frames ++ [.frame (s.afterUpdate h index vals rest).frameImage .complete,
          .frame (s.afterUpdate h index vals rest).frameImage .complete] := by
  have image : ((s.afterUpdate h index vals rest).afterUpdate h' index vals rest').frameImage
      = (s.afterUpdate h index vals rest).frameImage := by
    rw [State.frameImage, State.frameBytes, hs.afterUpdate_twice_buf]
    rfl
  rw [State.afterUpdate_frames, image, State.afterUpdate_frames s, List.append_assoc]
  rfl

/-- What every step of a machine keeps, every run keeps. -/
theorem run_induction (M : Host.Core) {P : M.State → Prop} (keeps : ∀ {s t}, P s → M.step s = .next t → P t) {n : Nat}
    {s t : M.State} (hs : P s) (h : M.run n s = .next t) : P t := by
  induction n generalizing s with
  | zero => cases h; exact hs
  | succ n ih =>
    rw [Host.Core.run] at h
    cases hu : M.step s with
    | next u => rw [hu] at h; exact ih (keeps hs hu) h
    | fault r => rw [hu] at h; cases h
    | refused r => rw [hu] at h; cases h

theorem run_inv {n : Nat} {s t : State} (hs : s.Inv) (h : core.run n s = .next t) : t.Inv :=
  run_induction core (P := State.Inv) step_inv hs h

theorem State.waitingOf_afterUpdate (s : State) (h host : HostId) (index : BitVec 24) (vals : ChannelValues)
    (rest : List Action) : (s.afterUpdate h index vals rest).waitingOf host = if host = h then none else s.waitingOf host :=
  Sparse.get_erase s.waiting h host

/-- Settles O59: the second command goes on waiting while the first runs, and then runs from `Idle` itself. -/
theorem waitingRepeatSameFrame : Obligations.WaitingRepeatSameFrame := by
  intro s h h' index vals lead lead' rest hinv hr hready hidle hne hwait hwait' hi hag
  have first := run_update hinv hr hready hidle hwait hi hag
  have second := run_update (run_inv hinv first) hr hready rfl (by rw [State.waitingOf_afterUpdate, if_neg hne.symm, hwait'])
    hi rfl
  exact ⟨_, _, first, second, hinv.mem.afterUpdate_twice_frames .., hinv.mem.afterUpdate_twice_buf ..,
    hinv.mem.afterUpdate_twice_led ..⟩

theorem Sparse.erase_put {α : Type} (m : List (Nat × α)) (a : Nat) (v : α) :
    Sparse.erase (Sparse.put m a v) a = Sparse.erase m a := by
  induction m with
  | nil => simp [Sparse.put, Sparse.erase]
  | cons c m ih =>
    obtain ⟨k, u⟩ := c
    unfold Sparse.put
    split_ifs with hlt heq
    · simp [Sparse.erase]
    · simp [Sparse.erase, heq]
    · simp only [Sparse.erase, List.filter_cons] at ih ⊢
      rw [ih]

/-- An in-range update offered and accepted at once runs to its end. -/
theorem run_offered_update {s : State} {h : HostId} {index : BitVec 24} {vals : ChannelValues} {lead : Nat}
    {rest : List Action} (hinv : s.Inv) (hr : s.resetAsserted = false) (hready : s.ready = true) (hidle : s.phase = .idle)
    (hwait : s.waitingOf h = none) (hi : index.toNat < s.cfg.leds)
    (hag : s.agenda = Action.offer h (encode (.setBrightness index vals)) :: Action.accept h ::
      (List.replicate lead (Action.period true)
        ++ (List.replicate (s.cfg.frameBits + s.cfg.latch) (Action.period false) ++ rest))) :
    core.run (1 + (1 + (lead + s.cfg.frameBits + s.cfg.latch))) s = .next (s.afterUpdate h index vals rest) := by
  have hout : s.outstandingOf h = none := by rw [State.outstandingOf, hinv.outstanding_of_idle hidle]; rfl
  have hoffer : step s = .next { s with
      agenda := Action.accept h :: (List.replicate lead (Action.period true)
        ++ (List.replicate (s.cfg.frameBits + s.cfg.latch) (Action.period false) ++ rest))
      waiting := Sparse.put s.waiting h (encode (.setBrightness index vals)) } := by
    rw [step_of_turn (State.turn_of_agenda hr hag) nofun, State.popAction_cons hag]
    exact congrArg _ (if_pos ⟨hwait, hout⟩)
  have hstands := State.waitingOf_put s h h (encode (.setBrightness index vals))
  rw [if_pos rfl] at hstands
  have hrun := (core_run_succ _ hoffer).trans (run_update (step_inv hinv hoffer) hr hready hidle hstands hi rfl)
  rw [Nat.add_comm 1, State.afterUpdate, ← Sparse.erase_put s.waiting h (encode (.setBrightness index vals))]
  exact hrun

/-- Settles O40: each offer finds its host's port free, and the two runs are those of two updates. -/
theorem repeatedUpdateSameFrame : Obligations.RepeatedUpdateSameFrame := by
  intro s h h' index vals lead lead' rest hinv hr hready hidle hwait hwait' hi hag
  have first := run_offered_update hinv hr hready hidle hwait hi hag
  have second := run_offered_update (run_inv hinv first) hr hready rfl
    (by rw [State.waitingOf_afterUpdate, hwait', ite_self]) hi rfl
  exact ⟨_, _, first, second, hinv.mem.afterUpdate_twice_frames .., hinv.mem.afterUpdate_twice_buf ..,
    hinv.mem.afterUpdate_twice_led ..⟩

end Sys2Proof.Machine
end

section
/-! # The start latency (R96, R97) -/

namespace Sys2Proof.Machine

/-- A frame that has a bit has at least eight. -/
theorem one_lt_frameBits {c : Config} (h : 0 < c.frameBits) : 1 < c.frameBits := by
  unfold Config.frameBits at h ⊢
  omega

/-- Before bit 0, a period that is not held emits it. -/
theorem State.startsAfter_zero {s : State} {h : HostId} (ht : s.Turn (.period false)) (hready : s.ready = true)
    (hbits : 0 < s.cfg.frameBits) (hp : s.phase = .tx h 0) : s.StartsAfter h 0 := by
  obtain ⟨b, hb⟩ := State.frameBit_of_ready hready hbits
  have hstep := step_of_emit ht hp (fun _ => rfl) hb
  rw [State.emitBit, State.popAction_cfg, if_pos (one_lt_frameBits hbits)] at hstep
  refine ⟨fun m hm => ?_, _, core_run_succ 0 hstep, hb, rfl⟩
  obtain rfl := Nat.le_zero.1 hm
  exact ⟨s, rfl, hp, rfl, fun hlt => absurd hlt (Nat.lt_irrefl 0)⟩

/-- A held period before bit 0 makes the start latency one period longer. -/
theorem State.startsAfter_succ {s : State} {h : HostId} {d : Nat} (ht : s.Turn (.period true)) (hp : s.phase = .tx h 0)
    (hnext : s.popAction.lowPeriod.StartsAfter h d) : s.StartsAfter h (d + 1) := by
  have strip : s.SameStrip s.popAction.lowPeriod := s.sameStrip_popAction.trans ⟨rfl, rfl, rfl, rfl, rfl⟩
  have hstep := step_of_held ht hp
  obtain ⟨hlow, t, hrun, hbit, hphase⟩ := hnext
  refine ⟨fun m hm => ?_, t, (core_run_succ _ hstep).trans hrun, ?_, hphase⟩
  · cases m with
    | zero => exact ⟨s, rfl, hp, rfl, fun hlt => absurd hlt (Nat.lt_irrefl 0)⟩
    | succ m =>
      obtain ⟨u, hu, hup, hframes, hdout⟩ := hlow m (Nat.le_of_succ_le_succ hm)
      refine ⟨u, (core_run_succ _ hstep).trans hu, hup, hframes.trans s.popAction_frames, fun _ => ?_⟩
      cases m with
      | zero => cases hu; rfl
      | succ m => exact hdout m.succ_pos
  · rwa [State.frameBit, strip.memByte_eq] at hbit

theorem State.ownAction_before_start {s : State} {h : HostId} (hp : s.phase = .tx h 0) :
    s.ownAction = .period (decide (0 < s.delayLeft)) := by
  rw [State.ownAction, hp]

theorem State.ownAction_in_frame {s : State} {h : HostId} {k : Nat} (hp : s.phase = .tx h (k + 1)) :
    s.ownAction = .period false := by
  rw [State.ownAction, hp]

/-- By itself the block starts after the delay that is left (log 6). -/
theorem State.startsAfter_delayLeft {s : State} {h : HostId} {d : Nat} (hr : s.resetAsserted = false)
    (hready : s.ready = true) (hbits : 0 < s.cfg.frameBits) (hp : s.phase = .tx h 0) (ha : s.agenda = [])
    (hd : s.delayLeft = d) : s.StartsAfter h d := by
  induction d generalizing s with
  | zero =>
    have hnext := (State.nextAction_nil ha).trans (State.ownAction_before_start hp)
    rw [hd] at hnext
    exact State.startsAfter_zero ⟨hr, hnext⟩ hready hbits hp
  | succ d ih =>
    have hnext := (State.nextAction_nil ha).trans (State.ownAction_before_start hp)
    rw [hd, decide_eq_true d.succ_pos] at hnext
    have hdelay := State.delayLeft_popAction ha (by rw [State.choosing, hp]) hd
    refine State.startsAfter_succ ⟨hr, hnext⟩ hp (ih ?_ ?_ ?_ ?_ ?_ (State.delayLeft_of_delay hdelay))
    · exact s.popAction_resetAsserted.trans hr
    · exact s.popAction_ready.trans hready
    · exact s.popAction_cfg ▸ hbits
    · exact s.popAction_phase.trans hp
    · rw [State.lowPeriod_agenda, State.agenda_popAction, ha, List.tail_nil]

/-- An agenda of `d` held periods and one that is not starts after `d`. -/
theorem State.startsAfter_agenda {s : State} {h : HostId} {d : Nat} {rest : List Action} (hr : s.resetAsserted = false)
    (hready : s.ready = true) (hbits : 0 < s.cfg.frameBits) (hp : s.phase = .tx h 0)
    (ha : s.agenda = List.replicate d (Action.period true) ++ Action.period false :: rest) : s.StartsAfter h d := by
  induction d generalizing s with
  | zero => exact State.startsAfter_zero (State.turn_of_agenda hr ha) hready hbits hp
  | succ d ih =>
    rw [List.replicate_succ, List.cons_append] at ha
    refine State.startsAfter_succ (State.turn_of_agenda hr ha) hp ?_
    rw [State.popAction_cons ha]
    exact ih hr hready hbits hp rfl

/-- Settles O56: each held period adds one to the latency, the block's own number of them is the delay left, and in a frame the
step is `emitBit`. -/
theorem startLatencyIsFinite : Obligations.StartLatencyIsFinite := by
  refine ⟨fun s h hr hready hbits hp ha => ⟨_, State.startsAfter_delayLeft hr hready hbits hp ha rfl⟩,
    fun s h d rest hr hready hbits hp ha => State.startsAfter_agenda hr hready hbits hp ha,
    fun s h k hold ht hready hp hk => ?_, fun s h k ha hp => (State.nextAction_nil ha).trans (State.ownAction_in_frame hp)⟩
  obtain ⟨b, hb⟩ := State.frameBit_of_ready hready hk
  refine ⟨_, step_of_emit ht hp (fun h0 => absurd h0 k.succ_ne_zero) hb, ?_⟩
  rw [State.emitBit, State.popAction_cfg]
  split_ifs <;> exact ⟨hb, rfl⟩

end Sys2Proof.Machine
end

section
/-! # Every command is answered (R138) -/

namespace Sys2Proof.Machine

/-! ## The one outstanding command -/

/-- A busy block has the one word of its owner outstanding, an idle one none. -/
theorem State.Inv.outstanding_eq {s : State} {h : HostId} {w : Word} (hs : s.Inv) (hw : s.outstandingOf h = some w) :
    s.phase ≠ .idle ∧ s.outstanding = [(h, w)] := by
  have none_of (hout : s.outstanding = []) : s.outstandingOf h = none := by rw [State.outstandingOf, hout]; rfl
  have owned {host : HostId} (howns : s.Owns host) : s.outstanding = [(h, w)] := by
    obtain ⟨index, vals, hout, -⟩ := howns
    have hmem := Sparse.mem_of_get hw
    rw [hout] at hmem ⊢
    rw [List.mem_singleton.1 hmem]
  have hphase := hs.phase
  unfold State.PhaseOk at hphase
  match s.phase, hphase with
  | .idle, ⟨hout, _⟩ => exact absurd (hw.symm.trans (none_of hout)) (Option.some_ne_none w)
  | .tx host k, ⟨_, _, howns, _⟩ => exact ⟨nofun, owned howns⟩
  | .gap n none, ⟨_, _, _, hout, _⟩ => exact absurd (hw.symm.trans (none_of hout)) (Option.some_ne_none w)
  | .gap n (some o), ⟨_, _, _, howns, _⟩ => exact ⟨nofun, owned howns⟩

/-- A period of a busy block brings it closer to `Idle`, or is held low before bit 0. -/
theorem State.period_closer {s t : State} {hold : Bool} (hs : s.Supplied s.phase) (hbusy : s.phase ≠ .idle)
    (ht : s.period hold = .next t) : t.phase.periodsLeft t.cfg < s.phase.periodsLeft s.cfg
      ∨ (∃ h, s.phase = .tx h 0) ∧ hold = true ∧ t = s.lowPeriod := by
  rcases State.period_cases ht with ⟨hp, rfl⟩ | ⟨h, k, b, hp, -, -, rfl⟩ | ⟨n, o, hp, hn, rfl⟩
    | ⟨n, hp, rfl⟩ | ⟨n, o, w, hp, -, rfl⟩
  · obtain ⟨h, htx, hheld⟩ := hp.resolve_left hbusy
    exact .inr ⟨⟨h, htx⟩, hheld, rfl⟩
  all_goals left; rw [hp] at hs ⊢
  · obtain ⟨-, hk, -⟩ := hs
    rcases s.emitBit_cases h k b with ⟨-, e⟩ | ⟨-, e⟩ <;> rw [e]
    · simp only [State.withPhase_phase, State.withPhase_cfg, State.emit_cfg, Phase.periodsLeft]
      omega
    · simp only [State.withPhase_phase, Phase.periodsLeft]
      omega
  · change n - 1 + 1 < n + 1
    omega
  · exact Nat.succ_pos n
  · exact Nat.succ_pos n

/-- With no reset to come, every step of a busy block uses up an input to come, a period before `Idle`, or a period of the
delay. -/
theorem step_busy_waitLeft_lt {s t : State} (hs : s.Live) (hn : s.NoResetComes) (hbusy : s.phase ≠ .idle)
    (h : step s = .next t) : t.waitLeft < s.waitLeft := by
  obtain ⟨-, hagenda, hdelay⟩ := step_schedule hn h
  rw [State.waitLeft_lt_iff]
  cases ha : s.agenda with
  | cons a rest =>
    left
    rw [hagenda, ha]
    exact Nat.lt_succ_self rest.length
  | nil =>
    right
    rcases s.ownAction_cases with ⟨c, -, hidle, -⟩ | ⟨hold, hown, hhold, -⟩
    · exact absurd hidle hbusy
    rw [step_of_period ⟨hn.1, (State.nextAction_nil ha).trans hown⟩] at h
    refine ⟨by rw [hagenda, ha, List.tail_nil], .inr ⟨?_, ?_⟩⟩
    · rw [(State.period_keepsPorts h).waiting_eq, State.popAction_waiting]
    · have closer := State.period_closer hs.supplied.popAction (s.popAction_phase ▸ hbusy) h
      rw [s.popAction_phase, s.popAction_cfg] at closer
      refine closer.imp_right fun ⟨⟨host, htx⟩, hheld, hlow⟩ => ⟨?_, ?_⟩
      · rw [hlow, State.lowPeriod_phase, State.lowPeriod_cfg, s.popAction_phase, s.popAction_cfg]
      · obtain ⟨-, -, hleft⟩ := hhold hheld
        obtain ⟨d, hd⟩ := Nat.exists_eq_succ_of_ne_zero hleft
        have hchoosing : s.choosing = true := by rw [State.choosing, htx]
        rw [State.delayLeft_of_delay (hdelay.trans (State.delayLeft_popAction ha hchoosing hd)), hd]
        exact Nat.lt_succ_self d

/-- With no reset to come, a step answers the outstanding command or leaves it outstanding. -/
theorem step_answers_or_keeps {s t : State} {h : HostId} {w : Word} (hs : s.Inv) (hn : s.NoResetComes)
    (hw : s.outstandingOf h = some w) (hst : step s = .next t) :
    (∃ resp, t.responses = s.responses ++ [.answer h w resp]) ∨ t.outstandingOf h = some w := by
  obtain ⟨hbusy, hout⟩ := hs.outstanding_eq hw
  rw [step_of_perform hn.1 (State.accepted_of_busy hbusy)] at hst
  rcases State.perform_responses_cases hst with ⟨-, hkept⟩ | ⟨hassert, -⟩ | ⟨host, word, resp, e, hanswered, -⟩
  · right
    rw [State.outstandingOf, hkept, s.popAction_outstanding]
    exact hw
  · exact absurd hassert hn.nextAction_ne
  · have hmem := Sparse.mem_of_get hanswered
    rw [s.popAction_outstanding, hout] at hmem
    cases List.mem_singleton.1 hmem
    exact .inl ⟨resp, e.trans (congrArg (· ++ _) s.popAction_responses)⟩

/-- An accepted command is answered in the step of its acceptance, or outstanding after it. -/
theorem step_accepted_answers_or_keeps {s t : State} {h : HostId} {w : Word} (ha : s.accepted = some (h, w))
    (hst : step s = .next t) :
    (∃ resp, t.responses = s.responses ++ [.answer h w resp]) ∨ t.outstandingOf h = some w := by
  rw [step_of_accepted ha] at hst
  rcases exec_decodeWord_cases hst with ⟨code, detail, data, rfl, -⟩ | ⟨index, vals, u, -, -, hu, rfl⟩
  · exact .inl ⟨_, congrArg (· ++ _) s.popAction_responses⟩
  · obtain ⟨-, -, -, rfl⟩ := State.setLed_eq_ok.1 hu
    right
    have hserved := s.popAction.outstandingOf_take h h w
    rwa [if_pos rfl] at hserved

/-! ## Runs that end in an answer -/

/-- Responses once made stay. -/
theorem step_responses_prefix {s t : State} (hs : s.InitOk) (h : step s = .next t) : s.responses <+: t.responses := by
  rcases step_responses_cases hs h with e | e | ⟨_, _, _, e, -⟩
  · exact e ▸ List.prefix_rfl
  · exact e ▸ List.prefix_append _ _
  · exact e ▸ List.prefix_append _ _

theorem run_responses_prefix {n : Nat} {s t : State} (hs : s.InitOk) (h : core.run n s = .next t) :
    s.responses <+: t.responses := by
  obtain ⟨-, hpre⟩ := run_induction core (P := fun u : State => u.InitOk ∧ s.responses <+: u.responses)
    (fun ⟨hu, hpre⟩ hst => ⟨step_initOk hu hst, hpre.trans (step_responses_prefix hu hst)⟩) ⟨hs, List.prefix_rfl⟩ h
  exact hpre

theorem State.EventuallyAnswers.of_run {n : Nat} {s u : State} {h : HostId} {w : Word} (hs : s.InitOk)
    (hrun : core.run n s = .next u) (hu : u.EventuallyAnswers h w) : s.EventuallyAnswers h w := by
  obtain ⟨m, t, resp, ht, hmem⟩ := hu
  have hlen := (run_responses_prefix hs hrun).length_le
  exact ⟨n + m, t, resp, (core_run_add m hrun).trans ht, List.drop_subset_drop_left _ hlen hmem⟩

theorem State.eventuallyAnswers_of_step {s t : State} {h : HostId} {w : Word} {resp : Response} (hst : step s = .next t)
    (e : t.responses = s.responses ++ [.answer h w resp]) : s.EventuallyAnswers h w :=
  ⟨1, t, resp, core_run_succ 0 hst, by rw [e, List.drop_left]; exact List.mem_singleton.2 rfl⟩

/-- Where no reset comes, an outstanding command is answered: until then every step leaves it outstanding and uses up what is
left before. -/
theorem State.Inv.answers_outstanding {s : State} {h : HostId} {w : Word} (hs : s.Inv) (hn : s.NoResetComes)
    (hw : s.outstandingOf h = some w) : s.EventuallyAnswers h w := by
  obtain ⟨t, ht⟩ := stepNeverStops s hs
  rcases step_answers_or_keeps hs hn hw ht with ⟨resp, e⟩ | hw'
  · exact State.eventuallyAnswers_of_step ht e
  · obtain ⟨hbusy, -⟩ := hs.outstanding_eq hw
    have closer := step_busy_waitLeft_lt hs.live hn hbusy ht
    exact .of_run hs.init (core_run_succ 0 ht) ((step_inv hs ht).answers_outstanding (step_noResetComes hn ht) hw')
termination_by s.waitLeft
decreasing_by exact closer

theorem State.Inv.answers_accepted {s : State} {h : HostId} {w : Word} (hs : s.Inv) (hn : s.NoResetComes)
    (ha : s.accepted = some (h, w)) : s.EventuallyAnswers h w := by
  obtain ⟨t, ht⟩ := stepNeverStops s hs
  rcases step_accepted_answers_or_keeps ha ht with ⟨resp, e⟩ | hw
  · exact State.eventuallyAnswers_of_step ht e
  · exact .of_run hs.init (core_run_succ 0 ht) ((step_inv hs ht).answers_outstanding (step_noResetComes hn ht) hw)

/-- Settles O58: a waiting command is accepted (R53), and an accepted one answered at once or outstanding until its gap ends. -/
theorem everyCommandCompletes : Obligations.EveryCommandCompletes := by
  intro s h w hs hn hw
  rcases hw with hwait | hout
  · obtain ⟨n, t, hrun, ha⟩ := hs.live.eventuallyAccepts hn hwait
    have hnt : t.NoResetComes := run_induction core (P := State.NoResetComes) step_noResetComes hn hrun
    exact .of_run hs.init hrun ((run_inv hs hrun).answers_accepted hnt ha)
  · exact hs.answers_outstanding hn hout

end Sys2Proof.Machine
end
